-- ==== Sys2Proof/Word.lean ====
section
/-! DEFINITION. The word types of hackvm CORE (00_scope.md R6, R8). -/

namespace Sys2Proof

/-- A 16-bit word: general registers, `pc`, `sp`, addresses and the data path (R6). -/
abbrev Word := BitVec 16

/-- A byte of memory, of an instruction or of the console (R6, R8). -/
abbrev Byte := BitVec 8

/-- The number of a general register, R0 to R7: a 3-bit field (R21, R88). -/
abbrev Reg := BitVec 3

end Sys2Proof
end

