-- ==== Sys2Proof/Config.lean ====
section
/-! DEFINITION. The parameters of 00_scope.md R7, as plain data, and the one free value of the model.
The machine carries a `Params` beside its state (notes/assumptions/1.md): every value of every parameter is modelled,
and the spec's defaults stand in Sys2Proof/Machine/Parameters.lean. -/

namespace Sys2Proof

/-- `IMM8_EXT`: how an 8-bit immediate is widened to 16 bits (R7, R90, D6). -/
inductive Imm8Ext where
  | zero
  | sign
deriving DecidableEq, Repr

/-- `NOT_SRC`: which register field NOT reads (R7, R208, D7). -/
inductive NotSrc where
  | rd
  | rs
deriving DecidableEq, Repr

/-- `MEMCPY_OVERLAP`: MEMCPY with overlapping regions (R7, R261, D23). -/
inductive MemcpyOverlap where
  | ascending
  | unspecified
deriving DecidableEq, Repr

/-- `RESET_CPU_CONSOLE`: the console across `reset_cpu()` (R7, R37, D21). -/
inductive ResetCpuConsole where
  | kept
  | cleared
deriving DecidableEq, Repr

/-- `STEP_PENDING_DISPLAY`: whether the host's `step` returns after each instruction while
`display_requested` stays set (R7, R290, D18). -/
inductive StepPendingDisplay where
  | one
  | continueOn
deriving DecidableEq, Repr

/-- The cost of one conditional jump: when its condition holds, and when it falls through (R320). -/
structure JccCost where
  taken : Nat
  notTaken : Nat
deriving DecidableEq, Repr

/-- `CYCLE_COST`: the table of cycle costs (R7, R318, D34), with an entry for every instruction and one for the unknown opcodes. The
entry of a conditional jump has its two costs (R320); that of PUTS, MEMCPY and MEMSET is the constant term, to which N of
R319 is added. -/
structure CycleCost where
  nop : Nat
  halt : Nat
  display : Nat
  ret : Nat
  pushf : Nat
  popf : Nat
  putc : Nat
  puts : Nat
  puti : Nat
  putx : Nat
  mov : Nat
  movi : Nat
  load : Nat
  loadb : Nat
  store : Nat
  storeb : Nat
  push : Nat
  pop : Nat
  add : Nat
  addi : Nat
  sub : Nat
  subi : Nat
  mul : Nat
  div : Nat
  inc : Nat
  dec : Nat
  neg : Nat
  and : Nat
  andi : Nat
  or : Nat
  ori : Nat
  xor : Nat
  xori : Nat
  not : Nat
  shl : Nat
  shr : Nat
  sar : Nat
  shli : Nat
  shri : Nat
  sari : Nat
  cmp : Nat
  cmpi : Nat
  test : Nat
  testi : Nat
  jmp : Nat
  jmpr : Nat
  jz : JccCost
  jnz : JccCost
  jc : JccCost
  jnc : JccCost
  jn : JccCost
  jnn : JccCost
  jo : JccCost
  jno : JccCost
  ja : JccCost
  jbe : JccCost
  jg : JccCost
  jge : JccCost
  jl : JccCost
  jle : JccCost
  call : Nat
  callr : Nat
  memcpy : Nat
  memset : Nat
  unknown : Nat
deriving DecidableEq, Repr

/-- The parameters of R7, all six. -/
structure Params where
  imm8Ext : Imm8Ext
  notSrc : NotSrc
  memcpyOverlap : MemcpyOverlap
  resetCpuConsole : ResetCpuConsole
  cycleCost : CycleCost
  stepPendingDisplay : StepPendingDisplay
deriving DecidableEq, Repr

/-- The FREE VALUE of R261: under `MEMCPY_OVERLAP = unspecified` a byte that MEMCPY writes to an address of both
ranges "takes any value". Nothing is known of this function; it is applied to `State.freeCount`, which every draw
advances (notes/assumptions/5.md). -/
opaque Config.memcpyOverlapByte : Nat → Byte

end Sys2Proof
end

