-- ==== Sys2Proof/Machine/Bytes.lean ====
section
/-! DEFINITION. Byte order, bit fields and widening: the helpers of decode and of memory (00_scope.md R8,
20_memory.md R62, 30_encoding.md R88 and R90). -/

namespace Sys2Proof.Machine

/-- `v[7:0]` (R8). -/
def lowByte (v : Word) : Byte := v.extractLsb' 0 8

/-- `v[15:8]` (R8). -/
def highByte (v : Word) : Byte := v.extractLsb' 8 8

/-- `{hi, lo}`: the word whose low byte is `lo` (R8, R58). -/
def wordOf (hi lo : Byte) : Word := hi ++ lo

/-- `zext_16` of a byte (R8). -/
def zext16 (b : Byte) : Word := b.setWidth 16

/-- `sext_16` of a byte (R8). -/
def sext16 (b : Byte) : Word := b.signExtend 16

/-- `IMM(b)`: the 16-bit operand of an RI8 instruction under `IMM8_EXT` (R90, D6). -/
def widenImm (e : Imm8Ext) (b : Byte) : Word :=
  match e with
  | .zero => zext16 b
  | .sign => sext16 b

/-- `rd = b1[7:5]` of the register byte (R88, R90). -/
def rdField (b1 : Byte) : Reg := b1.extractLsb' 5 3

/-- `rs = b1[4:2]` of the register byte, a register or a shift distance (R88, R90). -/
def rsField (b1 : Byte) : Reg := b1.extractLsb' 2 3

/-- The register byte `(Rd << 5) | (Rs << 2)`, its reserved bits 1..0 zero (R88, R98). -/
def regByte (rd rs : Reg) : Byte := rd ++ rs ++ 0#2

end Sys2Proof.Machine
end

