-- ==== Sys2Proof/Machine/Parameters.lean ====
section
/-! DEFINITION. The spec's default of every parameter (00_scope.md R7). -/

namespace Sys2Proof.Machine

/-- The cost of every conditional jump in the source's precise list: 4 when it jumps, 2 when it falls through (R318, R320, C2). -/
def defaultJccCost : JccCost where
  taken := 4
  notTaken := 2

/-- The source's precise list of cycle costs, the default of `CYCLE_COST` (R318, R320, C1, C2, D34). -/
def defaultCycleCost : CycleCost where
  nop := 1
  halt := 1
  display := 1000
  ret := 5
  pushf := 3
  popf := 3
  putc := 2
  puts := 3
  puti := 8
  putx := 6
  mov := 2
  movi := 3
  load := 4
  loadb := 3
  store := 4
  storeb := 3
  push := 4
  pop := 4
  add := 2
  addi := 3
  sub := 2
  subi := 3
  mul := 8
  div := 12
  inc := 2
  dec := 2
  neg := 2
  and := 2
  andi := 3
  or := 2
  ori := 3
  xor := 2
  xori := 3
  not := 2
  shl := 2
  shr := 2
  sar := 2
  shli := 2
  shri := 2
  sari := 2
  cmp := 2
  cmpi := 3
  test := 2
  testi := 3
  jmp := 3
  jmpr := 2
  jz := defaultJccCost
  jnz := defaultJccCost
  jc := defaultJccCost
  jnc := defaultJccCost
  jn := defaultJccCost
  jnn := defaultJccCost
  jo := defaultJccCost
  jno := defaultJccCost
  ja := defaultJccCost
  jbe := defaultJccCost
  jg := defaultJccCost
  jge := defaultJccCost
  jl := defaultJccCost
  jle := defaultJccCost
  call := 6
  callr := 5
  memcpy := 5
  memset := 5
  unknown := 1

/-- The default of every parameter (R7). -/
def defaultParams : Params where
  imm8Ext := .zero
  notSrc := .rd
  memcpyOverlap := .ascending
  resetCpuConsole := .kept
  cycleCost := defaultCycleCost
  stepPendingDisplay := .one

end Sys2Proof.Machine
end

