-- ==== Sys2Proof/Machine/State.lean ====
section
/-! DEFINITION. The state of hackvm CORE (10_state.md), its value after `init()` (R37, R301), and the reasons a step can stop:
there are none on this hardware (60_exceptions.md R271). -/

namespace Sys2Proof.Machine

/-- Bytes by index, sparse: an index that is not listed holds 0x00, the value every byte of `mem` and of `cbuf` has after
`init()` (R37). In canonical form (`Memory.wf`, `Memory.canonical`) the indices rise strictly and no listed byte is 0x00, so that
equal contents are equal lists. -/
abbrev Memory := List Host.Cell

/-- The flag bundle (R26): zero, carry or borrow, negative, signed overflow. -/
structure Flags where
  z : Bool
  c : Bool
  n : Bool
  v : Bool
deriving DecidableEq, Repr

/-- The console (R31): the ring of 4,096 bytes, the write position 0..4095, the valid length 0..4096 and the sticky
"updated" boolean. -/
structure Console where
  cbuf : Memory
  cpos : Nat
  clen : Nat
  cupd : Bool
deriving DecidableEq, Repr

/-- The state. All fields but the last two are the spec's (R21 to R33); `params` and `freeCount` are the model's own
(notes/assumptions/1.md and 5.md). -/
structure State where
  /-- R0 to R7 (R21). -/
  regs : Vector Word 8
  /-- The program counter (R23). -/
  pc : Word
  /-- The stack pointer (R24). -/
  sp : Word
  /-- Z, C, N, V (R26). -/
  flags : Flags
  /-- Set by HALT (R29, R131). -/
  halted : Bool
  /-- Set by DISPLAY (R29, R132). -/
  displayRequested : Bool
  /-- No instruction sets it (R29, R288). -/
  waitingForInput : Bool
  /-- The 64-bit cycle counter (R30, R322). -/
  cycles : BitVec 64
  /-- The console (R31). -/
  console : Console
  /-- The store below the overlay, 0x0000..0xFFEF (R33, R52, R76). -/
  mem : Memory
  /-- The system timer (R32, R279). -/
  sysTimer : Word
  /-- The countdown timer (R32, R279). -/
  countdown : Word
  /-- The last key pressed (R32, R281). -/
  keyCode : Byte
  /-- 1 while a key is down, else 0 (R32, R281). -/
  keyState : Byte
  /-- The model's own: the parameters of R7. No step and no host command writes it. -/
  params : Params
  /-- The model's own: how many free values have been drawn (`Config.memcpyOverlapByte`). -/
  freeCount : Nat
deriving DecidableEq, Repr

/-- The reasons a step faults: none. "The CPU never fails" (R271); no meaning and no step answers with a fault. -/
inductive Fault where
deriving DecidableEq, Repr

/-- The reasons a step is refused. -/
inductive Refusal where
  /-- Raised by `exec` for an instruction without a meaning; every instruction has its meaning, so nothing raises it. Safe. -/
  | notModelled (mnemonic : String)
deriving DecidableEq, Repr

/-- The state after `init()` under the parameters `p` (R37, R301), no free value drawn yet. -/
def State.initial (p : Params) : State where
  regs := Vector.replicate 8 0
  pc := 0x0000
  sp := 0xFFEF
  flags := { z := false, c := false, n := false, v := false }
  halted := false
  displayRequested := false
  waitingForInput := false
  cycles := 0
  console := { cbuf := [], cpos := 0, clen := 0, cupd := false }
  mem := []
  sysTimer := 0
  countdown := 0
  keyCode := 0
  keyState := 0
  params := p
  freeCount := 0

/-- The machine right after reset: the state after `init()` (R37, R301) with every parameter at the spec's default (R7;
notes/assumptions/2.md, 3, 4, 6, 7 and 8). -/
def State.reset : State := State.initial defaultParams

end Sys2Proof.Machine
end

