-- ==== Sys2Proof/Machine/Memory.lean ====
section
/-! DEFINITION. The sparse byte store behind `mem` and `cbuf`: reading, writing and its canonical form. -/

namespace Sys2Proof.Machine

/-- The byte at an index; 0x00 where nothing is listed, as after `init()` (R37). -/
def Memory.read (k : Nat) : Memory → Byte
  | [] => 0
  | (a, b) :: rest => if a = k then b else Memory.read k rest

/-- Store a byte at an index, keeping the list in canonical form: a 0x00 is never listed. -/
def Memory.write (k : Nat) (v : Byte) : Memory → Memory
  | [] => if v = 0 then [] else [(k, v)]
  | (a, b) :: rest =>
    if k < a then (if v = 0 then (a, b) :: rest else (k, v) :: (a, b) :: rest)
    else if k = a then (if v = 0 then rest else (k, v) :: rest)
    else (a, b) :: Memory.write k v rest

/-- The list holds only indices from `lo` up to below `hi`, strictly rising, and no 0x00. -/
def Memory.canonical (lo hi : Nat) : Memory → Bool
  | [] => true
  | (a, b) :: rest => decide (lo ≤ a) && decide (a < hi) && b != 0 && Memory.canonical (a + 1) hi rest

/-- The canonical form of `mem`: the store below the overlay, 0x0000..0xFFEF (R52, R76). -/
def Memory.wf (m : Memory) : Bool := m.canonical 0 0xFFF0

/-- The bytes from index `k` on, `n` of them, in order. -/
def Memory.slice (m : Memory) (k n : Nat) : List Byte := (List.range n).map fun i => m.read (k + i)

end Sys2Proof.Machine
end

