-- ==== Sys2Proof/Machine/Ops.lean ====
section
/-! DEFINITION. The named operations over registers, memory and the stack (20_memory.md, 42_data_movement.md). The hardware raises no
exception and has no trap entry or return (60_exceptions.md R271, R275, R276), so there is no operation that takes one. -/

namespace Sys2Proof.Machine

/-! Registers -/

/-- `x[i]` (R8, R21). -/
def State.reg (s : State) (r : Reg) : Word := s.regs.get r.toFin

/-- `x[i] <- v` (R8, R21): no register is hardwired. -/
def State.setReg (s : State) (r : Reg) (v : Word) : State := { s with regs := s.regs.set r.toNat v r.isLt }

/-- `pc <- target` (R8). -/
def State.setPc (s : State) (a : Word) : State := { s with pc := a }

/-- `sp <- v` (R8). -/
def State.setSp (s : State) (a : Word) : State := { s with sp := a }

/-- Write all four flags. -/
def State.setFlags (s : State) (f : Flags) : State := { s with flags := f }

/-- `cycles <- cycles + cost`, modulo 2^64 (R128, R322). -/
def State.charge (s : State) (cost : Nat) : State := { s with cycles := s.cycles + BitVec.ofNat 64 cost }

/-- The end of an instruction: its effects stand in `s`, its cost is added, the CPU goes on (R128). -/
def retire (cost : Nat) (s : State) : Host.Outcome State Fault Refusal := .next (s.charge cost)

/-! Memory -/

/-- What stands behind an address (R52). -/
inductive Target where
  | store
  | sysTimerLow
  | sysTimerHigh
  | countdownLow
  | countdownHigh
  | keyCode
  | keyState
  | reserved
deriving DecidableEq, Repr

/-- The address map (R52). -/
def targetOf (a : Word) : Target :=
  if a.toNat < 0xFFF0 then .store
  else match a.toNat with
    | 0xFFF0 => .sysTimerLow
    | 0xFFF1 => .sysTimerHigh
    | 0xFFF2 => .countdownLow
    | 0xFFF3 => .countdownHigh
    | 0xFFF4 => .keyCode
    | 0xFFF5 => .keyState
    | _ => .reserved

/-- `read8(a)` (R57): through the overlay, with no side effect. -/
def State.read8 (s : State) (a : Word) : Byte :=
  match targetOf a with
  | .store => s.mem.read a.toNat
  | .sysTimerLow => lowByte s.sysTimer
  | .sysTimerHigh => highByte s.sysTimer
  | .countdownLow => lowByte s.countdown
  | .countdownHigh => highByte s.countdown
  | .keyCode => s.keyCode
  | .keyState => s.keyState
  | .reserved => 0

/-- `write8(a, v)` (R59): read-only and reserved addresses discard the byte. -/
def State.write8 (s : State) (a : Word) (v : Byte) : State :=
  match targetOf a with
  | .store => { s with mem := s.mem.write a.toNat v }
  | .countdownLow => { s with countdown := wordOf (highByte s.countdown) v }
  | .countdownHigh => { s with countdown := wordOf v (lowByte s.countdown) }
  | .sysTimerLow => s
  | .sysTimerHigh => s
  | .keyCode => s
  | .keyState => s
  | .reserved => s

/-- `read16(a)` (R58): little-endian, two byte reads, the address modulo 2^16. -/
def State.read16 (s : State) (a : Word) : Word := wordOf (s.read8 (a + 1)) (s.read8 a)

/-- `write16(a, v)` (R60): two byte writes, the low byte first. -/
def State.write16 (s : State) (a v : Word) : State := (s.write8 a (lowByte v)).write8 (a + 1) (highByte v)

/-! The stack -/

/-- `Push16(v)` (R172): `sp` is decremented by 2 before the word is written. -/
def State.push16 (s : State) (v : Word) : State := (s.setSp (s.sp - 2)).write16 (s.sp - 2) v

/-- `Pop16()` (R173): the word at `sp`, and the state with `sp` incremented by 2 after the read. -/
def State.pop16 (s : State) : Word × State := (s.read16 s.sp, s.setSp (s.sp + 2))

/-! Loops of byte accesses (R64) -/

/-- The non-NUL bytes at `a` and upward, at most `n` of them, that PUTS reads (R147). The address is modulo 2^16. -/
def State.readString (s : State) : (n : Nat) → (a : Word) → List Byte
  | 0, _ => []
  | n + 1, a => if s.read8 a = 0 then [] else s.read8 a :: s.readString n (a + 1)

/-- The ascending loop of MEMCPY over `n` bytes (R261): each byte is read after the bytes before it were written. -/
def State.copyAscending : (n : Nat) → (src dst : Word) → State → State
  | 0, _, _, s => s
  | n + 1, src, dst, s => State.copyAscending n (src + 1) (dst + 1) (s.write8 dst (s.read8 src))

/-- The loop of MEMSET over `n` bytes (R262). -/
def State.fill : (n : Nat) → (dst : Word) → (v : Byte) → State → State
  | 0, _, _, s => s
  | n + 1, dst, v, s => State.fill n (dst + 1) v (s.write8 dst v)

/-- The address lies in the range of `len` bytes at `src`, taken modulo 2^16 (R261). -/
def inRange (src : Word) (len : Nat) (a : Word) : Bool := decide ((a - src).toNat < len)

/-- What `MEMCPY_OVERLAP = unspecified` adds to the ascending loop (R261): every byte of the destination that is also in the
source range `src`, `len` takes any value, one free value for each place of the loop (notes/assumptions/5.md). -/
def State.freeOverlap (src : Word) (len : Nat) : (n : Nat) → (dst : Word) → State → State
  | 0, _, s => s
  | n + 1, dst, s =>
    let t := if inRange src len dst then s.write8 dst (Config.memcpyOverlapByte s.freeCount) else s
    State.freeOverlap src len n (dst + 1) { t with freeCount := s.freeCount + 1 }

/-- The bytes MEMCPY moves, under the parameter `MEMCPY_OVERLAP` (R261, D23). -/
def State.copyBlock (n : Nat) (src dst : Word) (s : State) : State :=
  match s.params.memcpyOverlap with
  | .ascending => State.copyAscending n src dst s
  | .unspecified => State.freeOverlap src n n dst (State.copyAscending n src dst s)

end Sys2Proof.Machine
end

