-- ==== Sys2Proof/Machine/ConsoleOut.lean ====
section
/-! DEFINITION. The console's filtered writer and the conversions of PUTI and PUTX (41_console.md R141 to R151). -/

namespace Sys2Proof.Machine

/-- The ring's capacity (R6, R31). -/
def consoleCapacity : Nat := 4096

/-- A byte the console keeps: 0x20..0x7E, or the newline 0x0A (R141). -/
def printable (b : Byte) : Bool := (0x20 ≤ b.toNat && b.toNat ≤ 0x7E) || b.toNat == 0x0A

/-- `Emit(b)`, the filtered writer (R145): a byte that is not printable changes nothing. -/
def Console.emit (c : Console) (b : Byte) : Console :=
  if printable b then
    { cbuf := c.cbuf.write c.cpos b
      cpos := (c.cpos + 1) % consoleCapacity
      clen := min (c.clen + 1) consoleCapacity
      cupd := true }
  else c

/-- `Emit` of each byte in order. -/
def Console.emitAll (c : Console) (bs : List Byte) : Console := bs.foldl Console.emit c

/-- `Emit` of each byte of a list by the CPU. -/
def State.emitAll (s : State) (bs : List Byte) : State := { s with console := s.console.emitAll bs }

/-- The loop of `Dec` (R150); five digits are enough for 16 bits. -/
def decLoop : (fuel : Nat) → (v : Nat) → (acc : List Byte) → List Byte
  | 0, _, acc => acc
  | fuel + 1, v, acc => if v = 0 then acc else decLoop fuel (v / 10) (BitVec.ofNat 8 (0x30 + v % 10) :: acc)

/-- `Dec(v)`: the unsigned decimal digits, no leading zeros, "0" for 0 (R150; ASCII codes, notes/assumptions/11.md). -/
def decString (v : Word) : List Byte := if v = 0 then [0x30] else decLoop 5 v.toNat []

/-- `digit(n)` of a hexadecimal digit, upper case (R151; ASCII codes, notes/assumptions/11.md). -/
def hexDigit (n : Nat) : Byte := if n < 10 then BitVec.ofNat 8 (0x30 + n) else BitVec.ofNat 8 (0x41 + (n - 10))

/-- `Hex4(v)`: "0x" and four digits, the most significant nibble first (R151). -/
def hex4 (v : Word) : List Byte :=
  [0x30, 0x78, hexDigit (v.toNat / 4096), hexDigit (v.toNat / 256 % 16), hexDigit (v.toNat / 16 % 16), hexDigit (v.toNat % 16)]

end Sys2Proof.Machine
end

