-- ==== Sys2Proof/Machine/Flags.lean ====
section
/-! DEFINITION. Every flag computation, the shifter, the packed flag byte and the branch conditions (10_state.md R26, 43_arithmetic.md
R181 and R182, 44_logical_shift.md R201 and R209, 46_control_transfer.md R236). -/

namespace Sys2Proof.Machine

/-- The flags of `AddFlags(a, b)`; its result is `a + b` (R181). -/
def addFlags (a b : Word) : Flags where
  z := decide (a + b = 0)
  n := (a + b).msb
  c := decide (a + b < a)
  v := a.msb == b.msb && (a + b).msb != a.msb

/-- The flags of `SubFlags(a, b)`; its result is `a - b` (R182). -/
def subFlags (a b : Word) : Flags where
  z := decide (a - b = 0)
  n := (a - b).msb
  c := decide (a < b)
  v := a.msb != b.msb && (a - b).msb == b.msb

/-- `LogicFlags(r)`: Z and N from the result, C and V kept (R201; also MUL and DIV, R187, R188). -/
def logicFlags (r : Word) (f : Flags) : Flags := { f with z := decide (r = 0), n := r.msb }

/-- The kinds of shift (R209). -/
inductive ShiftKind where
  | shl
  | shr
  | sar
deriving DecidableEq, Repr

/-- The result of `Shift(kind, v, d)` (R209). -/
def shiftResult (kind : ShiftKind) (v : Word) (d : Nat) : Word :=
  match kind with
  | .shl => v <<< d
  | .shr => v >>> d
  | .sar => v.sshiftRight d

/-- The last bit shifted out, for a distance above 0 (R209). -/
def shiftCarry (kind : ShiftKind) (v : Word) (d : Nat) : Bool :=
  match kind with
  | .shl => v.getLsbD (16 - d)
  | .shr => v.getLsbD (d - 1)
  | .sar => v.getLsbD (d - 1)

/-- The flags of `Shift(kind, v, d)`: Z, N from the result, C the last bit out where d > 0, else kept; V kept (R209). -/
def shiftFlags (kind : ShiftKind) (v : Word) (d : Nat) (f : Flags) : Flags :=
  let g := logicFlags (shiftResult kind v d) f
  if d = 0 then g else { g with c := shiftCarry kind v d }

/-- `FlagByte()`: Z, C, N, V in bits 0, 1, 2, 3, bits 7..4 zero (R26). -/
def flagByte (f : Flags) : Byte :=
  (0#4) ++ (BitVec.ofBool f.v ++ (BitVec.ofBool f.n ++ (BitVec.ofBool f.c ++ BitVec.ofBool f.z)))

/-- `SetFlagByte(b)`: bits 7..4 are ignored (R26). -/
def flagsOfByte (b : Byte) : Flags where
  z := b.getLsbD 0
  c := b.getLsbD 1
  n := b.getLsbD 2
  v := b.getLsbD 3

/-- The fourteen branch conditions (R236). -/
inductive Cond where
  | z
  | nz
  | c
  | nc
  | n
  | nn
  | o
  | no
  | a
  | be
  | g
  | ge
  | l
  | le
deriving DecidableEq, Repr

/-- When a conditional jump is taken (R236). -/
def condHolds (k : Cond) (f : Flags) : Bool :=
  match k with
  | .z => f.z
  | .nz => !f.z
  | .c => f.c
  | .nc => !f.c
  | .n => f.n
  | .nn => !f.n
  | .o => f.v
  | .no => !f.v
  | .a => !f.c && !f.z
  | .be => f.c || f.z
  | .g => !f.z && f.n == f.v
  | .ge => f.n == f.v
  | .l => f.n != f.v
  | .le => f.z || f.n != f.v

end Sys2Proof.Machine
end

