-- ==== Sys2Proof/Machine/Operands.lean ====
section
/-! DEFINITION. The operand forms of 30_encoding.md R90, and the operations that several meanings share: each computes a result, writes it
and the flags of its family. -/

namespace Sys2Proof.Machine

/-- The 16-bit operand of an RI8 instruction, `IMM(imm8)` under `IMM8_EXT` (R90, D6). -/
def State.imm (s : State) (b : Byte) : Word := widenImm s.params.imm8Ext b

/-- The distance of a shift by a register: `x[rs][3:0]` (R210, R211, R212). -/
def State.shiftCount (s : State) (rs : Reg) : Nat := ((s.reg rs).extractLsb' 0 4).toNat

/-- The operand of NOT under `NOT_SRC` (R208, D7). -/
def State.notOperand (s : State) (rd rs : Reg) : Word :=
  match s.params.notSrc with
  | .rd => s.reg rd
  | .rs => s.reg rs

/-- `x[rd] <- AddFlags(x[rd], b)` (R181, R183). -/
def State.addInto (s : State) (rd : Reg) (b : Word) : State :=
  (s.setReg rd (s.reg rd + b)).setFlags (addFlags (s.reg rd) b)

/-- `x[rd] <- SubFlags(a, b)` (R182, R185, R191). -/
def State.subInto (s : State) (rd : Reg) (a b : Word) : State :=
  (s.setReg rd (a - b)).setFlags (subFlags a b)

/-- `x[rd] <- r; LogicFlags(r)` (R201, R187). -/
def State.logicInto (s : State) (rd : Reg) (r : Word) : State := (s.setReg rd r).setFlags (logicFlags r s.flags)

/-- `x[rd] <- Shift(kind, x[rd], d)` (R209). -/
def State.shiftInto (s : State) (kind : ShiftKind) (rd : Reg) (d : Nat) : State :=
  (s.setReg rd (shiftResult kind (s.reg rd) d)).setFlags (shiftFlags kind (s.reg rd) d s.flags)

/-- The quotient of DIV: 0xFFFF for a zero divisor (R188). -/
def divQuotient (a b : Word) : Word := if b = 0 then 0xFFFF else a / b

/-- The remainder of DIV: the dividend for a zero divisor (R188). -/
def divRemainder (a b : Word) : Word := if b = 0 then a else a % b

/-- The move of `Jcc(cond)`: to the target where the condition holds (R239). -/
def State.branchIf (s : State) (k : Cond) (addr : Word) : State := if condHolds k s.flags then s.setPc addr else s

end Sys2Proof.Machine
end

