-- ==== Sys2Proof/Syntax.lean ====
section
/-! DEFINITION. The instructions of hackvm CORE: one constructor for each row of spec/opcode_table.json
(30_encoding.md R92, R93). Operand fields are those of R90; register numbers and shift distances are 3-bit
fields, so every value of a field is a legal one. -/

namespace Sys2Proof

/-- The eight instruction formats (R89). -/
inductive Format where
  | O
  | RR
  | RD
  | RS
  | RSH
  | RI8
  | RI16
  | A16
deriving DecidableEq, Repr

/-- The instructions (R92), and the unknown opcodes (R93) with the opcode byte they carry.
NOT keeps its `rs` field, which it reads under `NOT_SRC = Rs` (R208). -/
inductive Instr where
  | nop
  | halt
  | display
  | ret
  | pushf
  | popf
  | putc (rs : Reg)
  | puts (rs : Reg)
  | puti (rs : Reg)
  | putx (rs : Reg)
  | mov (rd rs : Reg)
  | movi (rd : Reg) (imm : Word)
  | load (rd rs : Reg)
  | loadb (rd rs : Reg)
  | store (rd rs : Reg)
  | storeb (rd rs : Reg)
  | push (rs : Reg)
  | pop (rd : Reg)
  | add (rd rs : Reg)
  | addi (rd : Reg) (imm : Byte)
  | sub (rd rs : Reg)
  | subi (rd : Reg) (imm : Byte)
  | mul (rd rs : Reg)
  | div (rd rs : Reg)
  | inc (rd : Reg)
  | dec (rd : Reg)
  | neg (rd : Reg)
  | and (rd rs : Reg)
  | andi (rd : Reg) (imm : Byte)
  | or (rd rs : Reg)
  | ori (rd : Reg) (imm : Byte)
  | xor (rd rs : Reg)
  | xori (rd : Reg) (imm : Byte)
  | not (rd rs : Reg)
  | shl (rd rs : Reg)
  | shr (rd rs : Reg)
  | sar (rd rs : Reg)
  | shli (rd : Reg) (dist : BitVec 3)
  | shri (rd : Reg) (dist : BitVec 3)
  | sari (rd : Reg) (dist : BitVec 3)
  | cmp (rd rs : Reg)
  | cmpi (rd : Reg) (imm : Byte)
  | test (rd rs : Reg)
  | testi (rd : Reg) (imm : Byte)
  | jmp (addr : Word)
  | jmpr (rs : Reg)
  | jz (addr : Word)
  | jnz (addr : Word)
  | jc (addr : Word)
  | jnc (addr : Word)
  | jn (addr : Word)
  | jnn (addr : Word)
  | jo (addr : Word)
  | jno (addr : Word)
  | ja (addr : Word)
  | jbe (addr : Word)
  | jg (addr : Word)
  | jge (addr : Word)
  | jl (addr : Word)
  | jle (addr : Word)
  | call (addr : Word)
  | callr (rs : Reg)
  | memcpy
  | memset
  | unknown (op : Byte)
deriving DecidableEq, Repr

end Sys2Proof
end

