-- ==== Sys2Proof/Machine/Cost.lean ====
section
/-! DEFINITION. The cycle cost of each instruction (70_reset_and_hazards.md R318 to R320), read from the table `CYCLE_COST`. -/

namespace Sys2Proof.Machine

/-- The table's entry for the jump on each condition (R239, R318). -/
def jccEntry (t : CycleCost) : Cond → JccCost
  | .z => t.jz
  | .nz => t.jnz
  | .c => t.jc
  | .nc => t.jnc
  | .n => t.jn
  | .nn => t.jnn
  | .o => t.jo
  | .no => t.jno
  | .a => t.ja
  | .be => t.jbe
  | .g => t.jg
  | .ge => t.jge
  | .l => t.jl
  | .le => t.jle

/-- The cost of a conditional jump: its entry's cost for a jump that is taken, or for one that is not (R239, R320). -/
def State.jccCost (s : State) (k : Cond) : Nat :=
  if condHolds k s.flags then (jccEntry s.params.cycleCost k).taken else (jccEntry s.params.cycleCost k).notTaken

/-- `cost`: what the instruction adds to `cycles` when it executes in the state `s` that decode left (R318). N of R319 is the
number of non-NUL bytes PUTS reads, and the value of R2 at the start of a block operation. -/
def instrCost (i : Instr) (s : State) : Nat :=
  match i with
  | .nop => s.params.cycleCost.nop
  | .halt => s.params.cycleCost.halt
  | .display => s.params.cycleCost.display
  | .ret => s.params.cycleCost.ret
  | .pushf => s.params.cycleCost.pushf
  | .popf => s.params.cycleCost.popf
  | .putc _ => s.params.cycleCost.putc
  | .puts rs => s.params.cycleCost.puts + (s.readString 256 (s.reg rs)).length
  | .puti _ => s.params.cycleCost.puti
  | .putx _ => s.params.cycleCost.putx
  | .mov _ _ => s.params.cycleCost.mov
  | .movi _ _ => s.params.cycleCost.movi
  | .load _ _ => s.params.cycleCost.load
  | .loadb _ _ => s.params.cycleCost.loadb
  | .store _ _ => s.params.cycleCost.store
  | .storeb _ _ => s.params.cycleCost.storeb
  | .push _ => s.params.cycleCost.push
  | .pop _ => s.params.cycleCost.pop
  | .add _ _ => s.params.cycleCost.add
  | .addi _ _ => s.params.cycleCost.addi
  | .sub _ _ => s.params.cycleCost.sub
  | .subi _ _ => s.params.cycleCost.subi
  | .mul _ _ => s.params.cycleCost.mul
  | .div _ _ => s.params.cycleCost.div
  | .inc _ => s.params.cycleCost.inc
  | .dec _ => s.params.cycleCost.dec
  | .neg _ => s.params.cycleCost.neg
  | .and _ _ => s.params.cycleCost.and
  | .andi _ _ => s.params.cycleCost.andi
  | .or _ _ => s.params.cycleCost.or
  | .ori _ _ => s.params.cycleCost.ori
  | .xor _ _ => s.params.cycleCost.xor
  | .xori _ _ => s.params.cycleCost.xori
  | .not _ _ => s.params.cycleCost.not
  | .shl _ _ => s.params.cycleCost.shl
  | .shr _ _ => s.params.cycleCost.shr
  | .sar _ _ => s.params.cycleCost.sar
  | .shli _ _ => s.params.cycleCost.shli
  | .shri _ _ => s.params.cycleCost.shri
  | .sari _ _ => s.params.cycleCost.sari
  | .cmp _ _ => s.params.cycleCost.cmp
  | .cmpi _ _ => s.params.cycleCost.cmpi
  | .test _ _ => s.params.cycleCost.test
  | .testi _ _ => s.params.cycleCost.testi
  | .jmp _ => s.params.cycleCost.jmp
  | .jmpr _ => s.params.cycleCost.jmpr
  | .jz _ => s.jccCost .z
  | .jnz _ => s.jccCost .nz
  | .jc _ => s.jccCost .c
  | .jnc _ => s.jccCost .nc
  | .jn _ => s.jccCost .n
  | .jnn _ => s.jccCost .nn
  | .jo _ => s.jccCost .o
  | .jno _ => s.jccCost .no
  | .ja _ => s.jccCost .a
  | .jbe _ => s.jccCost .be
  | .jg _ => s.jccCost .g
  | .jge _ => s.jccCost .ge
  | .jl _ => s.jccCost .l
  | .jle _ => s.jccCost .le
  | .call _ => s.params.cycleCost.call
  | .callr _ => s.params.cycleCost.callr
  | .memcpy => s.params.cycleCost.memcpy + (s.reg 2).toNat
  | .memset => s.params.cycleCost.memset + (s.reg 2).toNat
  | .unknown _ => s.params.cycleCost.unknown

end Sys2Proof.Machine
end

