-- ==== Sys2Proof/Machine/Arithmetic.lean ====
section
/-! DEFINITION. The arithmetic instructions (43_arithmetic.md R183 to R191). Each meaning runs on the
state decode left, in which `pc` already holds the address of the next instruction (40_system.md R128). -/

namespace Sys2Proof.Machine

/-- ADD Rd, Rs (R183). -/
def execAdd (rd rs : Reg) (s : State) : Host.Outcome State Fault Refusal :=
  retire (instrCost (.add rd rs) s) (s.addInto rd (s.reg rs))

/-- ADDI Rd, imm8 (R184). -/
def execAddi (rd : Reg) (imm : Byte) (s : State) : Host.Outcome State Fault Refusal :=
  retire (instrCost (.addi rd imm) s) (s.addInto rd (s.imm imm))

/-- SUB Rd, Rs (R185). -/
def execSub (rd rs : Reg) (s : State) : Host.Outcome State Fault Refusal :=
  retire (instrCost (.sub rd rs) s) (s.subInto rd (s.reg rd) (s.reg rs))

/-- SUBI Rd, imm8 (R186). -/
def execSubi (rd : Reg) (imm : Byte) (s : State) : Host.Outcome State Fault Refusal :=
  retire (instrCost (.subi rd imm) s) (s.subInto rd (s.reg rd) (s.imm imm))

/-- MUL Rd, Rs: the low 16 bits; Z and N only (R187). -/
def execMul (rd rs : Reg) (s : State) : Host.Outcome State Fault Refusal :=
  retire (instrCost (.mul rd rs) s) (s.logicInto rd (s.reg rd * s.reg rs))

/-- DIV Rd, Rs: unsigned; the quotient to Rd, then the remainder to R0; Z and N from the quotient (R188, R129, C4). -/
def execDiv (rd rs : Reg) (s : State) : Host.Outcome State Fault Refusal :=
  let q := divQuotient (s.reg rd) (s.reg rs)
  let t := (s.setReg rd q).setReg 0 (divRemainder (s.reg rd) (s.reg rs))
  retire (instrCost (.div rd rs) s) (t.setFlags (logicFlags q s.flags))

/-- INC Rd (R189). -/
def execInc (rd : Reg) (s : State) : Host.Outcome State Fault Refusal :=
  retire (instrCost (.inc rd) s) (s.addInto rd 1)

/-- DEC Rd (R190). -/
def execDec (rd : Reg) (s : State) : Host.Outcome State Fault Refusal :=
  retire (instrCost (.dec rd) s) (s.subInto rd (s.reg rd) 1)

/-- NEG Rd: 0 - Rd (R191). -/
def execNeg (rd : Reg) (s : State) : Host.Outcome State Fault Refusal :=
  retire (instrCost (.neg rd) s) (s.subInto rd 0 (s.reg rd))

end Sys2Proof.Machine
end

