-- ==== Sys2Proof/Machine/Block.lean ====
section
/-! DEFINITION. The block operations (47_block.md R261 to R263). Each meaning runs on the
state decode left, in which `pc` already holds the address of the next instruction (40_system.md R128). -/

namespace Sys2Proof.Machine

/-- MEMCPY: R2 bytes from [R0] to [R1]; then R0 and R1 point one past the end and R2 is 0 (R261, C5). -/
def execMemcpy (s : State) : Host.Outcome State Fault Refusal :=
  let n := (s.reg 2).toNat
  let t := State.copyBlock n (s.reg 0) (s.reg 1) s
  retire (instrCost .memcpy s) (((t.setReg 0 (s.reg 0 + s.reg 2)).setReg 1 (s.reg 1 + s.reg 2)).setReg 2 0)

/-- MEMSET: R2 bytes at [R0] become the low byte of R1; R0 advances, R1 stays, R2 is 0 (R262, C5). -/
def execMemset (s : State) : Host.Outcome State Fault Refusal :=
  let t := State.fill (s.reg 2).toNat (s.reg 0) (lowByte (s.reg 1)) s
  retire (instrCost .memset s) ((t.setReg 0 (s.reg 0 + s.reg 2)).setReg 2 0)

end Sys2Proof.Machine
end

