-- ==== Sys2Proof/Machine/Compare.lean ====
section
/-! DEFINITION. The compare and test instructions, which write only flags (45_compare.md R226 to R229). Each meaning runs on the
state decode left, in which `pc` already holds the address of the next instruction (40_system.md R128). -/

namespace Sys2Proof.Machine

/-- CMP Rd, Rs: the flags of SUB (R226). -/
def execCmp (rd rs : Reg) (s : State) : Host.Outcome State Fault Refusal :=
  retire (instrCost (.cmp rd rs) s) (s.setFlags (subFlags (s.reg rd) (s.reg rs)))

/-- CMPI Rd, imm8: the flags of SUBI (R227). -/
def execCmpi (rd : Reg) (imm : Byte) (s : State) : Host.Outcome State Fault Refusal :=
  retire (instrCost (.cmpi rd imm) s) (s.setFlags (subFlags (s.reg rd) (s.imm imm)))

/-- TEST Rd, Rs: the flags of AND (R228). -/
def execTest (rd rs : Reg) (s : State) : Host.Outcome State Fault Refusal :=
  retire (instrCost (.test rd rs) s) (s.setFlags (logicFlags (s.reg rd &&& s.reg rs) s.flags))

/-- TESTI Rd, imm8: the flags of ANDI (R229). -/
def execTesti (rd : Reg) (imm : Byte) (s : State) : Host.Outcome State Fault Refusal :=
  retire (instrCost (.testi rd imm) s) (s.setFlags (logicFlags (s.reg rd &&& s.imm imm) s.flags))

end Sys2Proof.Machine
end

