-- ==== Sys2Proof/Machine/ConsoleInstr.lean ====
section
/-! DEFINITION. The console instructions (41_console.md R146 to R149). Each meaning runs on the
state decode left, in which `pc` already holds the address of the next instruction (40_system.md R128). -/

namespace Sys2Proof.Machine

/-- PUTC Rs: the low byte of Rs through the filter (R146). -/
def execPutc (rs : Reg) (s : State) : Host.Outcome State Fault Refusal :=
  retire (instrCost (.putc rs) s) (s.emitAll [lowByte (s.reg rs)])

/-- PUTS Rs: the bytes at Rs up to a NUL, at most 256, each through the filter (R147). The loop of R147 reads one byte and
emits it; emitting changes the console only, so reading the bytes first gives the same (notes/assumptions/15.md). -/
def execPuts (rs : Reg) (s : State) : Host.Outcome State Fault Refusal :=
  retire (instrCost (.puts rs) s) (s.emitAll (s.readString 256 (s.reg rs)))

/-- PUTI Rs: the unsigned decimal digits of Rs (R148). -/
def execPuti (rs : Reg) (s : State) : Host.Outcome State Fault Refusal :=
  retire (instrCost (.puti rs) s) (s.emitAll (decString (s.reg rs)))

/-- PUTX Rs: "0x" and four hexadecimal digits of Rs (R149). -/
def execPutx (rs : Reg) (s : State) : Host.Outcome State Fault Refusal :=
  retire (instrCost (.putx rs) s) (s.emitAll (hex4 (s.reg rs)))

end Sys2Proof.Machine
end

