-- ==== Sys2Proof/Machine/ControlTransfer.lean ====
section
/-! DEFINITION. Jumps, calls and return (46_control_transfer.md R237 to R256). Each meaning runs on the
state decode left, in which `pc` already holds the address of the next instruction (40_system.md R128). -/

namespace Sys2Proof.Machine

/-- JMP addr (R237). -/
def execJmp (addr : Word) (s : State) : Host.Outcome State Fault Refusal :=
  retire (instrCost (.jmp addr) s) (s.setPc addr)

/-- JMPR Rs (R238). -/
def execJmpr (rs : Reg) (s : State) : Host.Outcome State Fault Refusal :=
  retire (instrCost (.jmpr rs) s) (s.setPc (s.reg rs))

/-- JZ addr: taken when Z (R240). -/
def execJz (addr : Word) (s : State) : Host.Outcome State Fault Refusal :=
  retire (instrCost (.jz addr) s) (s.branchIf .z addr)

/-- JNZ addr: taken when not Z (R241). -/
def execJnz (addr : Word) (s : State) : Host.Outcome State Fault Refusal :=
  retire (instrCost (.jnz addr) s) (s.branchIf .nz addr)

/-- JC addr: taken when C (R242). -/
def execJc (addr : Word) (s : State) : Host.Outcome State Fault Refusal :=
  retire (instrCost (.jc addr) s) (s.branchIf .c addr)

/-- JNC addr: taken when not C (R243). -/
def execJnc (addr : Word) (s : State) : Host.Outcome State Fault Refusal :=
  retire (instrCost (.jnc addr) s) (s.branchIf .nc addr)

/-- JN addr: taken when N (R244). -/
def execJn (addr : Word) (s : State) : Host.Outcome State Fault Refusal :=
  retire (instrCost (.jn addr) s) (s.branchIf .n addr)

/-- JNN addr: taken when not N (R245). -/
def execJnn (addr : Word) (s : State) : Host.Outcome State Fault Refusal :=
  retire (instrCost (.jnn addr) s) (s.branchIf .nn addr)

/-- JO addr: taken when V (R246). -/
def execJo (addr : Word) (s : State) : Host.Outcome State Fault Refusal :=
  retire (instrCost (.jo addr) s) (s.branchIf .o addr)

/-- JNO addr: taken when not V (R247). -/
def execJno (addr : Word) (s : State) : Host.Outcome State Fault Refusal :=
  retire (instrCost (.jno addr) s) (s.branchIf .no addr)

/-- JA addr: taken when (not C) and (not Z) (R248). -/
def execJa (addr : Word) (s : State) : Host.Outcome State Fault Refusal :=
  retire (instrCost (.ja addr) s) (s.branchIf .a addr)

/-- JBE addr: taken when C or Z (R249). -/
def execJbe (addr : Word) (s : State) : Host.Outcome State Fault Refusal :=
  retire (instrCost (.jbe addr) s) (s.branchIf .be addr)

/-- JG addr: taken when (not Z) and (N = V) (R250). -/
def execJg (addr : Word) (s : State) : Host.Outcome State Fault Refusal :=
  retire (instrCost (.jg addr) s) (s.branchIf .g addr)

/-- JGE addr: taken when N = V (R251). -/
def execJge (addr : Word) (s : State) : Host.Outcome State Fault Refusal :=
  retire (instrCost (.jge addr) s) (s.branchIf .ge addr)

/-- JL addr: taken when N != V (R252). -/
def execJl (addr : Word) (s : State) : Host.Outcome State Fault Refusal :=
  retire (instrCost (.jl addr) s) (s.branchIf .l addr)

/-- JLE addr: taken when Z or (N != V) (R253). -/
def execJle (addr : Word) (s : State) : Host.Outcome State Fault Refusal :=
  retire (instrCost (.jle addr) s) (s.branchIf .le addr)

/-- CALL addr: the pushed `pc` is the address of the instruction after the CALL (R254). -/
def execCall (addr : Word) (s : State) : Host.Outcome State Fault Refusal :=
  retire (instrCost (.call addr) s) ((s.push16 s.pc).setPc addr)

/-- CALLR Rs: the target is read before the push (R255). -/
def execCallr (rs : Reg) (s : State) : Host.Outcome State Fault Refusal :=
  retire (instrCost (.callr rs) s) ((s.push16 s.pc).setPc (s.reg rs))

/-- RET: `pc <- Pop16()` (R256). -/
def execRet (s : State) : Host.Outcome State Fault Refusal :=
  retire (instrCost .ret s) (s.pop16.2.setPc s.pop16.1)

end Sys2Proof.Machine
end

