-- ==== Sys2Proof/Machine/DataMovement.lean ====
section
/-! DEFINITION. Moves, loads, stores and the stack (42_data_movement.md R161 to R173). Each meaning runs on the
state decode left, in which `pc` already holds the address of the next instruction (40_system.md R128). -/

namespace Sys2Proof.Machine

/-- MOV Rd, Rs (R161). -/
def execMov (rd rs : Reg) (s : State) : Host.Outcome State Fault Refusal :=
  retire (instrCost (.mov rd rs) s) (s.setReg rd (s.reg rs))

/-- MOVI Rd, imm16 (R162). -/
def execMovi (rd : Reg) (imm : Word) (s : State) : Host.Outcome State Fault Refusal :=
  retire (instrCost (.movi rd imm) s) (s.setReg rd imm)

/-- LOAD Rd, [Rs] (R163). -/
def execLoad (rd rs : Reg) (s : State) : Host.Outcome State Fault Refusal :=
  retire (instrCost (.load rd rs) s) (s.setReg rd (s.read16 (s.reg rs)))

/-- LOADB Rd, [Rs]: zero-extended (R164). -/
def execLoadb (rd rs : Reg) (s : State) : Host.Outcome State Fault Refusal :=
  retire (instrCost (.loadb rd rs) s) (s.setReg rd (zext16 (s.read8 (s.reg rs))))

/-- STORE [Rd], Rs: the `rd` field holds the address (R165). -/
def execStore (rd rs : Reg) (s : State) : Host.Outcome State Fault Refusal :=
  retire (instrCost (.store rd rs) s) (s.write16 (s.reg rd) (s.reg rs))

/-- STOREB [Rd], Rs: the low byte of Rs (R166). -/
def execStoreb (rd rs : Reg) (s : State) : Host.Outcome State Fault Refusal :=
  retire (instrCost (.storeb rd rs) s) (s.write8 (s.reg rd) (lowByte (s.reg rs)))

/-- PUSH Rs (R167). -/
def execPush (rs : Reg) (s : State) : Host.Outcome State Fault Refusal :=
  retire (instrCost (.push rs) s) (s.push16 (s.reg rs))

/-- POP Rd (R168). -/
def execPop (rd : Reg) (s : State) : Host.Outcome State Fault Refusal :=
  retire (instrCost (.pop rd) s) (s.pop16.2.setReg rd s.pop16.1)

/-- PUSHF: the packed flag byte, zero-extended (R169). -/
def execPushf (s : State) : Host.Outcome State Fault Refusal :=
  retire (instrCost .pushf s) (s.push16 (zext16 (flagByte s.flags)))

/-- POPF: the low byte of the popped word becomes the flags (R170). -/
def execPopf (s : State) : Host.Outcome State Fault Refusal :=
  retire (instrCost .popf s) (s.pop16.2.setFlags (flagsOfByte (lowByte s.pop16.1)))

end Sys2Proof.Machine
end

