-- ==== Sys2Proof/Machine/LogicShift.lean ====
section
/-! DEFINITION. The logical and shift instructions (44_logical_shift.md R202 to R215). Each meaning runs on the
state decode left, in which `pc` already holds the address of the next instruction (40_system.md R128). -/

namespace Sys2Proof.Machine

/-- AND Rd, Rs (R202). -/
def execAnd (rd rs : Reg) (s : State) : Host.Outcome State Fault Refusal :=
  retire (instrCost (.and rd rs) s) (s.logicInto rd (s.reg rd &&& s.reg rs))

/-- ANDI Rd, imm8 (R203). -/
def execAndi (rd : Reg) (imm : Byte) (s : State) : Host.Outcome State Fault Refusal :=
  retire (instrCost (.andi rd imm) s) (s.logicInto rd (s.reg rd &&& s.imm imm))

/-- OR Rd, Rs (R204). -/
def execOr (rd rs : Reg) (s : State) : Host.Outcome State Fault Refusal :=
  retire (instrCost (.or rd rs) s) (s.logicInto rd (s.reg rd ||| s.reg rs))

/-- ORI Rd, imm8 (R205). -/
def execOri (rd : Reg) (imm : Byte) (s : State) : Host.Outcome State Fault Refusal :=
  retire (instrCost (.ori rd imm) s) (s.logicInto rd (s.reg rd ||| s.imm imm))

/-- XOR Rd, Rs (R206). -/
def execXor (rd rs : Reg) (s : State) : Host.Outcome State Fault Refusal :=
  retire (instrCost (.xor rd rs) s) (s.logicInto rd (s.reg rd ^^^ s.reg rs))

/-- XORI Rd, imm8 (R207). -/
def execXori (rd : Reg) (imm : Byte) (s : State) : Host.Outcome State Fault Refusal :=
  retire (instrCost (.xori rd imm) s) (s.logicInto rd (s.reg rd ^^^ s.imm imm))

/-- NOT Rd: the complement of the register that `NOT_SRC` names (R208, D7). -/
def execNot (rd rs : Reg) (s : State) : Host.Outcome State Fault Refusal :=
  retire (instrCost (.not rd rs) s) (s.logicInto rd (~~~ s.notOperand rd rs))

/-- SHL Rd, Rs: shift left, by the low 4 bits of Rs (R210). -/
def execShl (rd rs : Reg) (s : State) : Host.Outcome State Fault Refusal :=
  retire (instrCost (.shl rd rs) s) (s.shiftInto .shl rd (s.shiftCount rs))

/-- SHR Rd, Rs: shift right, logical, by the low 4 bits of Rs (R211). -/
def execShr (rd rs : Reg) (s : State) : Host.Outcome State Fault Refusal :=
  retire (instrCost (.shr rd rs) s) (s.shiftInto .shr rd (s.shiftCount rs))

/-- SAR Rd, Rs: shift right, arithmetic, by the low 4 bits of Rs (R212). -/
def execSar (rd rs : Reg) (s : State) : Host.Outcome State Fault Refusal :=
  retire (instrCost (.sar rd rs) s) (s.shiftInto .sar rd (s.shiftCount rs))

/-- SHLI Rd, imm3: shift left, by the distance in the `rs` field (R213). -/
def execShli (rd : Reg) (dist : BitVec 3) (s : State) : Host.Outcome State Fault Refusal :=
  retire (instrCost (.shli rd dist) s) (s.shiftInto .shl rd dist.toNat)

/-- SHRI Rd, imm3: shift right, logical, by the distance in the `rs` field (R214). -/
def execShri (rd : Reg) (dist : BitVec 3) (s : State) : Host.Outcome State Fault Refusal :=
  retire (instrCost (.shri rd dist) s) (s.shiftInto .shr rd dist.toNat)

/-- SARI Rd, imm3: shift right, arithmetic, by the distance in the `rs` field (R215). -/
def execSari (rd : Reg) (dist : BitVec 3) (s : State) : Host.Outcome State Fault Refusal :=
  retire (instrCost (.sari rd dist) s) (s.shiftInto .sar rd dist.toNat)

end Sys2Proof.Machine
end

