-- ==== Sys2Proof/Machine/System.lean ====
section
/-! DEFINITION. The system instructions (40_system.md R130 to R133). Each meaning runs on the
state decode left, in which `pc` already holds the address of the next instruction (40_system.md R128). -/

namespace Sys2Proof.Machine

/-- NOP: no operation (R130). -/
def execNop (s : State) : Host.Outcome State Fault Refusal :=
  retire (instrCost .nop s) s

/-- HALT: `halted <- true` (R131). -/
def execHalt (s : State) : Host.Outcome State Fault Refusal :=
  retire (instrCost .halt s) { s with halted := true }

/-- DISPLAY: `display_requested <- true`; it does not block (R132). -/
def execDisplay (s : State) : Host.Outcome State Fault Refusal :=
  retire (instrCost .display s) { s with displayRequested := true }

/-- An unknown opcode: a 1-byte NOP (R93, R133). -/
def execUnknown (op : Byte) (s : State) : Host.Outcome State Fault Refusal :=
  retire (instrCost (.unknown op) s) s

end Sys2Proof.Machine
end

