-- ==== Sys2Proof/Machine/Dispatch.lean ====
section
/-! DEFINITION. The meaning of each instruction, one arm per constructor. -/

namespace Sys2Proof.Machine

/-- Execute an instruction in the state decode left (40_system.md R128). -/
def exec (i : Instr) (s : State) : Host.Outcome State Fault Refusal :=
  match i with
  | .nop => Sys2Proof.Machine.execNop s
  | .halt => Sys2Proof.Machine.execHalt s
  | .display => Sys2Proof.Machine.execDisplay s
  | .ret => Sys2Proof.Machine.execRet s
  | .pushf => Sys2Proof.Machine.execPushf s
  | .popf => Sys2Proof.Machine.execPopf s
  | .putc rs => Sys2Proof.Machine.execPutc rs s
  | .puts rs => Sys2Proof.Machine.execPuts rs s
  | .puti rs => Sys2Proof.Machine.execPuti rs s
  | .putx rs => Sys2Proof.Machine.execPutx rs s
  | .mov rd rs => Sys2Proof.Machine.execMov rd rs s
  | .movi rd imm => Sys2Proof.Machine.execMovi rd imm s
  | .load rd rs => Sys2Proof.Machine.execLoad rd rs s
  | .loadb rd rs => Sys2Proof.Machine.execLoadb rd rs s
  | .store rd rs => Sys2Proof.Machine.execStore rd rs s
  | .storeb rd rs => Sys2Proof.Machine.execStoreb rd rs s
  | .push rs => Sys2Proof.Machine.execPush rs s
  | .pop rd => Sys2Proof.Machine.execPop rd s
  | .add rd rs => Sys2Proof.Machine.execAdd rd rs s
  | .addi rd imm => Sys2Proof.Machine.execAddi rd imm s
  | .sub rd rs => Sys2Proof.Machine.execSub rd rs s
  | .subi rd imm => Sys2Proof.Machine.execSubi rd imm s
  | .mul rd rs => Sys2Proof.Machine.execMul rd rs s
  | .div rd rs => Sys2Proof.Machine.execDiv rd rs s
  | .inc rd => Sys2Proof.Machine.execInc rd s
  | .dec rd => Sys2Proof.Machine.execDec rd s
  | .neg rd => Sys2Proof.Machine.execNeg rd s
  | .and rd rs => Sys2Proof.Machine.execAnd rd rs s
  | .andi rd imm => Sys2Proof.Machine.execAndi rd imm s
  | .or rd rs => Sys2Proof.Machine.execOr rd rs s
  | .ori rd imm => Sys2Proof.Machine.execOri rd imm s
  | .xor rd rs => Sys2Proof.Machine.execXor rd rs s
  | .xori rd imm => Sys2Proof.Machine.execXori rd imm s
  | .not rd rs => Sys2Proof.Machine.execNot rd rs s
  | .shl rd rs => Sys2Proof.Machine.execShl rd rs s
  | .shr rd rs => Sys2Proof.Machine.execShr rd rs s
  | .sar rd rs => Sys2Proof.Machine.execSar rd rs s
  | .shli rd dist => Sys2Proof.Machine.execShli rd dist s
  | .shri rd dist => Sys2Proof.Machine.execShri rd dist s
  | .sari rd dist => Sys2Proof.Machine.execSari rd dist s
  | .cmp rd rs => Sys2Proof.Machine.execCmp rd rs s
  | .cmpi rd imm => Sys2Proof.Machine.execCmpi rd imm s
  | .test rd rs => Sys2Proof.Machine.execTest rd rs s
  | .testi rd imm => Sys2Proof.Machine.execTesti rd imm s
  | .jmp addr => Sys2Proof.Machine.execJmp addr s
  | .jmpr rs => Sys2Proof.Machine.execJmpr rs s
  | .jz addr => Sys2Proof.Machine.execJz addr s
  | .jnz addr => Sys2Proof.Machine.execJnz addr s
  | .jc addr => Sys2Proof.Machine.execJc addr s
  | .jnc addr => Sys2Proof.Machine.execJnc addr s
  | .jn addr => Sys2Proof.Machine.execJn addr s
  | .jnn addr => Sys2Proof.Machine.execJnn addr s
  | .jo addr => Sys2Proof.Machine.execJo addr s
  | .jno addr => Sys2Proof.Machine.execJno addr s
  | .ja addr => Sys2Proof.Machine.execJa addr s
  | .jbe addr => Sys2Proof.Machine.execJbe addr s
  | .jg addr => Sys2Proof.Machine.execJg addr s
  | .jge addr => Sys2Proof.Machine.execJge addr s
  | .jl addr => Sys2Proof.Machine.execJl addr s
  | .jle addr => Sys2Proof.Machine.execJle addr s
  | .call addr => Sys2Proof.Machine.execCall addr s
  | .callr rs => Sys2Proof.Machine.execCallr rs s
  | .memcpy => Sys2Proof.Machine.execMemcpy s
  | .memset => Sys2Proof.Machine.execMemset s
  | .unknown op => Sys2Proof.Machine.execUnknown op s

end Sys2Proof.Machine
end

