-- ==== Sys2Proof/Machine/OpcodeMap.lean ====
section
/-! DEFINITION. The opcode map of 30_encoding.md without the opcode numbers of Decode: the length of each format, the format of
each instruction (R89, R92) and which opcode values are unknown (R93). The numbers and formats inside 0x20..0x28, 0x30..0x3C,
0x40..0x43 and 0x50..0x5F are the spec's reconstruction (D1 to D5, notes/assumptions/9.md). -/

namespace Sys2Proof

/-- The number of bytes of a format (R89). -/
def Format.length : Format → Nat
  | .O => 1
  | .RR => 2
  | .RD => 2
  | .RS => 2
  | .RSH => 2
  | .RI8 => 3
  | .RI16 => 4
  | .A16 => 3

/-- The 192 opcode values of R93: not in the table of R92. -/
def isUnknownOpcode (op : Byte) : Bool :=
  let n := op.toNat
  (0x0A ≤ n && n ≤ 0x0F) || (0x18 ≤ n && n ≤ 0x1F) || (0x29 ≤ n && n ≤ 0x2F) || (0x3D ≤ n && n ≤ 0x3F) ||
    (0x44 ≤ n && n ≤ 0x4F) || (0x62 ≤ n && n ≤ 0x6F) || (0x72 ≤ n && n ≤ 0xFF)

/-- The format of each instruction (R92; R93 for the unknown opcodes). -/
def Instr.format : Instr → Format
  | .nop | .halt | .display | .ret | .pushf | .popf => .O
  | .putc _ | .puts _ | .puti _ | .putx _ => .RS
  | .mov _ _ => .RR
  | .movi _ _ => .RI16
  | .load _ _ | .loadb _ _ | .store _ _ | .storeb _ _ => .RR
  | .push _ => .RS
  | .pop _ => .RD
  | .add _ _ | .sub _ _ | .mul _ _ | .div _ _ => .RR
  | .addi _ _ | .subi _ _ => .RI8
  | .inc _ | .dec _ | .neg _ => .RD
  | .and _ _ | .or _ _ | .xor _ _ => .RR
  | .andi _ _ | .ori _ _ | .xori _ _ => .RI8
  | .not _ _ => .RD
  | .shl _ _ | .shr _ _ | .sar _ _ => .RR
  | .shli _ _ | .shri _ _ | .sari _ _ => .RSH
  | .cmp _ _ | .test _ _ => .RR
  | .cmpi _ _ | .testi _ _ => .RI8
  | .jmp _ => .A16
  | .jmpr _ => .RS
  | .jz _ | .jnz _ | .jc _ | .jnc _ | .jn _ | .jnn _ | .jo _ | .jno _ => .A16
  | .ja _ | .jbe _ | .jg _ | .jge _ | .jl _ | .jle _ => .A16
  | .call _ => .A16
  | .callr _ => .RS
  | .memcpy | .memset => .O
  | .unknown _ => .O

/-- The number of bytes of an instruction, fixed by its opcode (R86, R92). -/
def Instr.length (i : Instr) : Nat := i.format.length

end Sys2Proof
end

