-- ==== Sys2Proof/WellFormed.lean ====
section
/-! DEFINITION. Which terms of `Instr` are instructions. Register, immediate and address fields are bit vectors of the
width of R90, so they are legal by type; the one thing a term can get wrong is to call a defined opcode
unknown (30_encoding.md R93). -/

namespace Sys2Proof

/-- The check: an unknown opcode is one of R93. -/
def Instr.wellFormed : Instr → Bool
  | .unknown op => isUnknownOpcode op
  | _ => true

end Sys2Proof
end

