-- ==== Sys2Proof/Decode.lean ====
section
/-! DEFINITION. Decode, total on any bytes (30_encoding.md R86 to R95), and the encoder written from the same table. -/

namespace Sys2Proof

open Sys2Proof.Machine

/-- Why a list of bytes is no instruction. The decoding of hackvm is total (R95): only a list that ends before the
instruction does is rejected. Raised by `decode` alone, never by a step, whose fetch always has its bytes (safe). -/
inductive DecodeError where
  | truncated
deriving DecidableEq, Repr

/-- The instruction with opcode `op` and following bytes `b1`, `b2`, `b3` (R90, R92, R93). A byte beyond the
instruction's length is not looked at, nor is a field its format ignores (R91). -/
def decodeBytes (op b1 b2 b3 : Byte) : Instr :=
  match op.toNat with
  | 0x00 => .nop
  | 0x01 => .halt
  | 0x02 => .display
  | 0x03 => .ret
  | 0x04 => .pushf
  | 0x05 => .popf
  | 0x06 => .putc (rsField b1)
  | 0x07 => .puts (rsField b1)
  | 0x08 => .puti (rsField b1)
  | 0x09 => .putx (rsField b1)
  | 0x10 => .mov (rdField b1) (rsField b1)
  | 0x11 => .movi (rdField b1) (wordOf b3 b2)
  | 0x12 => .load (rdField b1) (rsField b1)
  | 0x13 => .loadb (rdField b1) (rsField b1)
  | 0x14 => .store (rdField b1) (rsField b1)
  | 0x15 => .storeb (rdField b1) (rsField b1)
  | 0x16 => .push (rsField b1)
  | 0x17 => .pop (rdField b1)
  | 0x20 => .add (rdField b1) (rsField b1)
  | 0x21 => .addi (rdField b1) b2
  | 0x22 => .sub (rdField b1) (rsField b1)
  | 0x23 => .subi (rdField b1) b2
  | 0x24 => .mul (rdField b1) (rsField b1)
  | 0x25 => .div (rdField b1) (rsField b1)
  | 0x26 => .inc (rdField b1)
  | 0x27 => .dec (rdField b1)
  | 0x28 => .neg (rdField b1)
  | 0x30 => .and (rdField b1) (rsField b1)
  | 0x31 => .andi (rdField b1) b2
  | 0x32 => .or (rdField b1) (rsField b1)
  | 0x33 => .ori (rdField b1) b2
  | 0x34 => .xor (rdField b1) (rsField b1)
  | 0x35 => .xori (rdField b1) b2
  | 0x36 => .not (rdField b1) (rsField b1)
  | 0x37 => .shl (rdField b1) (rsField b1)
  | 0x38 => .shr (rdField b1) (rsField b1)
  | 0x39 => .sar (rdField b1) (rsField b1)
  | 0x3A => .shli (rdField b1) (rsField b1)
  | 0x3B => .shri (rdField b1) (rsField b1)
  | 0x3C => .sari (rdField b1) (rsField b1)
  | 0x40 => .cmp (rdField b1) (rsField b1)
  | 0x41 => .cmpi (rdField b1) b2
  | 0x42 => .test (rdField b1) (rsField b1)
  | 0x43 => .testi (rdField b1) b2
  | 0x50 => .jmp (wordOf b2 b1)
  | 0x51 => .jmpr (rsField b1)
  | 0x52 => .jz (wordOf b2 b1)
  | 0x53 => .jnz (wordOf b2 b1)
  | 0x54 => .jc (wordOf b2 b1)
  | 0x55 => .jnc (wordOf b2 b1)
  | 0x56 => .jn (wordOf b2 b1)
  | 0x57 => .jnn (wordOf b2 b1)
  | 0x58 => .jo (wordOf b2 b1)
  | 0x59 => .jno (wordOf b2 b1)
  | 0x5A => .ja (wordOf b2 b1)
  | 0x5B => .jbe (wordOf b2 b1)
  | 0x5C => .jg (wordOf b2 b1)
  | 0x5D => .jge (wordOf b2 b1)
  | 0x5E => .jl (wordOf b2 b1)
  | 0x5F => .jle (wordOf b2 b1)
  | 0x60 => .call (wordOf b2 b1)
  | 0x61 => .callr (rsField b1)
  | 0x70 => .memcpy
  | 0x71 => .memset
  | _ => .unknown op

/-- `Format(op)`: the format, and with it the length, is fixed by the opcode alone (R86, R92; unknown opcodes: O, R93). -/
def formatOf (op : Byte) : Format := (decodeBytes op 0 0 0).format

/-- The first instruction of a list of bytes in address order (R87), and the bytes after it. -/
def decode : List Byte → Except DecodeError (Instr × List Byte)
  | [] => .error .truncated
  | op :: rest =>
    let k := (formatOf op).length - 1
    if rest.length < k then .error .truncated
    else .ok (decodeBytes op (rest.getD 0 0) (rest.getD 1 0) (rest.getD 2 0), rest.drop k)

/-- The bytes of an instruction in address order, every ignored field zero (R87, R89, R98). -/
def encode : Instr → List Byte
  | .nop => [0x00#8]
  | .halt => [0x01#8]
  | .display => [0x02#8]
  | .ret => [0x03#8]
  | .pushf => [0x04#8]
  | .popf => [0x05#8]
  | .putc rs => [0x06#8, regByte 0 rs]
  | .puts rs => [0x07#8, regByte 0 rs]
  | .puti rs => [0x08#8, regByte 0 rs]
  | .putx rs => [0x09#8, regByte 0 rs]
  | .mov rd rs => [0x10#8, regByte rd rs]
  | .movi rd imm => [0x11#8, regByte rd 0, lowByte imm, highByte imm]
  | .load rd rs => [0x12#8, regByte rd rs]
  | .loadb rd rs => [0x13#8, regByte rd rs]
  | .store rd rs => [0x14#8, regByte rd rs]
  | .storeb rd rs => [0x15#8, regByte rd rs]
  | .push rs => [0x16#8, regByte 0 rs]
  | .pop rd => [0x17#8, regByte rd 0]
  | .add rd rs => [0x20#8, regByte rd rs]
  | .addi rd imm => [0x21#8, regByte rd 0, imm]
  | .sub rd rs => [0x22#8, regByte rd rs]
  | .subi rd imm => [0x23#8, regByte rd 0, imm]
  | .mul rd rs => [0x24#8, regByte rd rs]
  | .div rd rs => [0x25#8, regByte rd rs]
  | .inc rd => [0x26#8, regByte rd 0]
  | .dec rd => [0x27#8, regByte rd 0]
  | .neg rd => [0x28#8, regByte rd 0]
  | .and rd rs => [0x30#8, regByte rd rs]
  | .andi rd imm => [0x31#8, regByte rd 0, imm]
  | .or rd rs => [0x32#8, regByte rd rs]
  | .ori rd imm => [0x33#8, regByte rd 0, imm]
  | .xor rd rs => [0x34#8, regByte rd rs]
  | .xori rd imm => [0x35#8, regByte rd 0, imm]
  | .not rd rs => [0x36#8, regByte rd rs]
  | .shl rd rs => [0x37#8, regByte rd rs]
  | .shr rd rs => [0x38#8, regByte rd rs]
  | .sar rd rs => [0x39#8, regByte rd rs]
  | .shli rd dist => [0x3A#8, regByte rd dist]
  | .shri rd dist => [0x3B#8, regByte rd dist]
  | .sari rd dist => [0x3C#8, regByte rd dist]
  | .cmp rd rs => [0x40#8, regByte rd rs]
  | .cmpi rd imm => [0x41#8, regByte rd 0, imm]
  | .test rd rs => [0x42#8, regByte rd rs]
  | .testi rd imm => [0x43#8, regByte rd 0, imm]
  | .jmp addr => [0x50#8, lowByte addr, highByte addr]
  | .jmpr rs => [0x51#8, regByte 0 rs]
  | .jz addr => [0x52#8, lowByte addr, highByte addr]
  | .jnz addr => [0x53#8, lowByte addr, highByte addr]
  | .jc addr => [0x54#8, lowByte addr, highByte addr]
  | .jnc addr => [0x55#8, lowByte addr, highByte addr]
  | .jn addr => [0x56#8, lowByte addr, highByte addr]
  | .jnn addr => [0x57#8, lowByte addr, highByte addr]
  | .jo addr => [0x58#8, lowByte addr, highByte addr]
  | .jno addr => [0x59#8, lowByte addr, highByte addr]
  | .ja addr => [0x5A#8, lowByte addr, highByte addr]
  | .jbe addr => [0x5B#8, lowByte addr, highByte addr]
  | .jg addr => [0x5C#8, lowByte addr, highByte addr]
  | .jge addr => [0x5D#8, lowByte addr, highByte addr]
  | .jl addr => [0x5E#8, lowByte addr, highByte addr]
  | .jle addr => [0x5F#8, lowByte addr, highByte addr]
  | .call addr => [0x60#8, lowByte addr, highByte addr]
  | .callr rs => [0x61#8, regByte 0 rs]
  | .memcpy => [0x70#8]
  | .memset => [0x71#8]
  | .unknown op => [op]

/-- The opcode of an instruction: its byte 0 (R86, R92). -/
def opcodeOf (i : Instr) : Byte := (encode i).headD 0

/-- The four bytes of a little-endian number, the first in bits 7..0 (the numbering of spec/opcode_table.json). -/
def tableBytes (nbits w : Nat) : List Byte :=
  let v := w % 2 ^ nbits
  [BitVec.ofNat 8 v, BitVec.ofNat 8 (v / 2 ^ 8), BitVec.ofNat 8 (v / 2 ^ 16), BitVec.ofNat 8 (v / 2 ^ 24)]

/-- The instruction the decoder reads from the `nbits` bits `w`, every later bit zero. -/
def decodeTableWord (nbits w : Nat) : Option Instr :=
  match decode (tableBytes nbits w) with
  | .ok (i, _) => some i
  | .error _ => none

end Sys2Proof
end

