-- ==== Sys2Proof/Machine/Fetch.lean ====
section
/-! DEFINITION. Instruction fetch (40_system.md R127, R128; 20_memory.md R73): every byte through `read8` at `pc`. -/

namespace Sys2Proof.Machine

/-- `Fetch8()`: the byte at `pc`, and the state with `pc` advanced modulo 2^16 (R127). -/
def State.fetch8 (s : State) : Byte × State := (s.read8 s.pc, s.setPc (s.pc + 1))

/-- Fetch the bytes of one instruction in the order of R128 and decode them: the instruction, and the state in which `pc` is
the address of the next one. -/
def State.fetchInstr (s : State) : Instr × State :=
  let (op, s1) := s.fetch8
  match formatOf op with
  | .O => (decodeBytes op 0 0 0, s1)
  | .RR | .RD | .RS | .RSH =>
    let (b1, s2) := s1.fetch8
    (decodeBytes op b1 0 0, s2)
  | .RI8 | .A16 =>
    let (b1, s2) := s1.fetch8
    let (b2, s3) := s2.fetch8
    (decodeBytes op b1 b2 0, s3)
  | .RI16 =>
    let (b1, s2) := s1.fetch8
    let (b2, s3) := s2.fetch8
    let (b3, s4) := s3.fetch8
    (decodeBytes op b1 b2 b3, s4)

/-- The four bytes at `pc` and upward, modulo 2^16: as many as the longest instruction has. -/
def State.bytesAtPc (s : State) : List Byte :=
  [s.read8 s.pc, s.read8 (s.pc + 1), s.read8 (s.pc + 2), s.read8 (s.pc + 3)]

/-- Write bytes at `a` and upward. -/
def State.placeBytes : (bs : List Byte) → (a : Word) → State → State
  | [], _, s => s
  | b :: bs, a, s => State.placeBytes bs (a + 1) (s.write8 a b)

/-- The cost `Step()` returns when it runs in `s` (R126, R128): 0 when halted, else that of the instruction at `pc`. -/
def State.stepCost (s : State) : Nat :=
  if s.halted then 0 else instrCost s.fetchInstr.1 s.fetchInstr.2

end Sys2Proof.Machine
end

