-- ==== Sys2Proof/Machine/Step.lean ====
section
/-! DEFINITION. One instruction step (40_system.md R126 to R128), and placing an instruction where the step fetches it. -/

namespace Sys2Proof.Machine

/-- `Step()`: a halted machine does not change (R126); else fetch, decode, execute (R128). The cost is added to `cycles` by the
meaning. The host's loop over it is `State.hostStep` (R290). -/
def step (s : State) : Host.Outcome State Fault Refusal :=
  if s.halted then .next s else exec s.fetchInstr.1 s.fetchInstr.2

/-- `s` with the instruction of the `nbits` bits `w` stored at `pc`, four bytes in all, and the machine not halted, so that
the next `step` runs it (notes/assumptions/12.md). -/
def State.withFetchWord (s : State) (nbits w : Nat) : State :=
  { State.placeBytes (tableBytes nbits w) s.pc s with halted := false }

end Sys2Proof.Machine
end

