-- ==== Sys2Proof/Machine/Assembler.lean ====
section
/-! DEFINITION. The assembly language of 30_encoding.md section 6 (R97 to R105), from statements on: which instruction each
mnemonic and operand shape is, the range checks, the directives, labels and constants, and the flat image. The text
of a source line (R96) is in Sys2Proof/Machine/AsmText.lean. What the spec leaves open here is in notes/assumptions/19.md. -/

namespace Sys2Proof.Machine

/-- The kinds of assembly errors (R104). `unexpectedToken` and `unterminatedString` are raised where the text is read. -/
inductive AsmErrorKind where
  | invalidMnemonic
  | invalidRegister
  | invalidOperand
  | unexpectedToken
  | undefinedLabel
  | duplicateLabel
  | numberOutOfRange
  | invalidDirective
  | unterminatedString
deriving DecidableEq, Repr

/-- An assembly error, with its 1-based line and a column (R104). -/
structure AsmError where
  kind : AsmErrorKind
  line : Nat
  column : Nat
deriving DecidableEq, Repr

/-- An immediate (R99): a number, a number with a leading `-`, a character (its byte), or an identifier. -/
inductive AsmExpr where
  | num (n : Nat)
  | neg (n : Nat)
  | chr (b : Byte)
  | ident (name : String)
deriving DecidableEq, Repr

/-- An operand: plain, or between brackets (R97). -/
inductive AsmOperand where
  | plain (e : AsmExpr)
  | bracket (e : AsmExpr)
deriving DecidableEq, Repr

/-- An item of `.db` (R101). -/
inductive AsmItem where
  | expr (e : AsmExpr)
  | str (bytes : List Byte)
deriving DecidableEq, Repr

/-- A statement: a label, an instruction or a directive (R96, R101). -/
inductive AsmStmt where
  | label (name : String)
  | instr (mnemonic : String) (operands : List AsmOperand)
  | org (e : AsmExpr)
  | equ (name : String) (e : AsmExpr)
  | db (items : List AsmItem)
  | dw (items : List AsmExpr)
  | ds (e : AsmExpr)
deriving DecidableEq, Repr

/-- A source line: at most one statement, optionally preceded by a label (R96), and where its errors are reported. -/
structure AsmLine where
  label : Option String := none
  stmt : Option AsmStmt := none
  line : Nat := 1
  column : Nat := 1
deriving DecidableEq, Repr

/-- An error of a source line, reported at the column where the line begins. -/
def AsmLine.report {α : Type} (l : AsmLine) (r : Except AsmErrorKind α) : Except AsmError α :=
  r.mapError fun k => { kind := k, line := l.line, column := l.column }

/-- Mnemonics and register names are case-insensitive (R103). -/
def asmUpper (s : String) : String := String.ofList (s.toList.map Char.toUpper)

/-- The operand shape of a mnemonic, with the instruction its operands make (R97). -/
inductive AsmForm where
  | none (i : Instr)
  | reg (f : Reg → Instr)
  | regs (f : Reg → Reg → Instr)
  | load (f : Reg → Reg → Instr)
  | store (f : Reg → Reg → Instr)
  | imm8 (f : Reg → Byte → Instr)
  | imm3 (f : Reg → BitVec 3 → Instr)
  | imm16 (f : Reg → Word → Instr)
  | addr (f : Word → Instr)

/-- The shape of each mnemonic (R97), the aliases among them (R100). NOT is assembled with `rs = 0` (R208). -/
def asmForm (mnemonic : String) : Option AsmForm :=
  match asmUpper mnemonic with
  | "NOP" => some (.none .nop)
  | "HALT" => some (.none .halt)
  | "DISPLAY" => some (.none .display)
  | "RET" => some (.none .ret)
  | "PUSHF" => some (.none .pushf)
  | "POPF" => some (.none .popf)
  | "PUTC" => some (.reg .putc)
  | "PUTS" => some (.reg .puts)
  | "PUTI" => some (.reg .puti)
  | "PUTX" => some (.reg .putx)
  | "MOV" => some (.regs .mov)
  | "MOVI" => some (.imm16 .movi)
  | "LOAD" => some (.load .load)
  | "LOADB" => some (.load .loadb)
  | "STORE" => some (.store .store)
  | "STOREB" => some (.store .storeb)
  | "PUSH" => some (.reg .push)
  | "POP" => some (.reg .pop)
  | "ADD" => some (.regs .add)
  | "ADDI" => some (.imm8 .addi)
  | "SUB" => some (.regs .sub)
  | "SUBI" => some (.imm8 .subi)
  | "MUL" => some (.regs .mul)
  | "DIV" => some (.regs .div)
  | "INC" => some (.reg .inc)
  | "DEC" => some (.reg .dec)
  | "NEG" => some (.reg .neg)
  | "AND" => some (.regs .and)
  | "ANDI" => some (.imm8 .andi)
  | "OR" => some (.regs .or)
  | "ORI" => some (.imm8 .ori)
  | "XOR" => some (.regs .xor)
  | "XORI" => some (.imm8 .xori)
  | "NOT" => some (.reg fun rd => .not rd 0)
  | "SHL" => some (.regs .shl)
  | "SHR" => some (.regs .shr)
  | "SAR" => some (.regs .sar)
  | "SHLI" => some (.imm3 .shli)
  | "SHRI" => some (.imm3 .shri)
  | "SARI" => some (.imm3 .sari)
  | "CMP" => some (.regs .cmp)
  | "CMPI" => some (.imm8 .cmpi)
  | "TEST" => some (.regs .test)
  | "TESTI" => some (.imm8 .testi)
  | "JMP" => some (.addr .jmp)
  | "JMPR" => some (.reg .jmpr)
  | "JZ" | "JE" => some (.addr .jz)
  | "JNZ" | "JNE" => some (.addr .jnz)
  | "JC" | "JB" => some (.addr .jc)
  | "JNC" | "JAE" => some (.addr .jnc)
  | "JN" | "JS" => some (.addr .jn)
  | "JNN" | "JNS" => some (.addr .jnn)
  | "JO" => some (.addr .jo)
  | "JNO" => some (.addr .jno)
  | "JA" => some (.addr .ja)
  | "JBE" => some (.addr .jbe)
  | "JG" => some (.addr .jg)
  | "JGE" => some (.addr .jge)
  | "JL" => some (.addr .jl)
  | "JLE" => some (.addr .jle)
  | "CALL" => some (.addr .call)
  | "CALLR" => some (.reg .callr)
  | "MEMCPY" => some (.none .memcpy)
  | "MEMSET" => some (.none .memset)
  | _ => Option.none

/-- The bytes an instruction of a shape takes (R92). -/
def AsmForm.size : AsmForm → Nat
  | .none _ => 1
  | .reg _ | .regs _ | .load _ | .store _ | .imm3 _ => 2
  | .imm8 _ | .addr _ => 3
  | .imm16 _ => 4

/-- The symbols of a source: constants by `.equ` (R101), labels by address (R102). Names are case-sensitive (R103). -/
structure AsmSymbols where
  consts : List (String × Int)
  labels : List (String × Nat)
deriving DecidableEq, Repr

/-- The value of an immediate where a label may stand: constants first, then labels (R99). -/
def AsmSymbols.value (y : AsmSymbols) : AsmExpr → Except AsmErrorKind Int
  | .num n => .ok n
  | .neg n => .ok (-(n : Int))
  | .chr b => .ok b.toNat
  | .ident x =>
    match y.consts.lookup x, y.labels.lookup x with
    | some v, _ => .ok v
    | Option.none, some a => .ok a
    | Option.none, Option.none => .error .undefinedLabel

/-- The value of an immediate of fewer than 16 bits: a label may not stand there (R102, notes/assumptions/19.md). -/
def AsmSymbols.narrow (y : AsmSymbols) : AsmExpr → Except AsmErrorKind Int
  | .ident x =>
    match y.consts.lookup x, y.labels.lookup x with
    | some v, _ => .ok v
    | Option.none, some _ => .error .invalidOperand
    | Option.none, Option.none => .error .undefinedLabel
  | e => y.value e

/-- A value within bounds, or an error (R99). -/
def asmRange (lo hi v : Int) : Except AsmErrorKind Int := if lo ≤ v ∧ v ≤ hi then .ok v else .error .numberOutOfRange

/-- An 8-bit immediate: −128..255, its low 8 bits (R99). -/
def AsmSymbols.imm8 (y : AsmSymbols) (e : AsmExpr) : Except AsmErrorKind Byte := do
  let v ← y.narrow e
  let v ← asmRange (-128) 255 v
  return BitVec.ofInt 8 v

/-- A shift immediate: 0..7 (R99). -/
def AsmSymbols.imm3 (y : AsmSymbols) (e : AsmExpr) : Except AsmErrorKind (BitVec 3) := do
  let v ← y.narrow e
  let v ← asmRange 0 7 v
  return BitVec.ofInt 3 v

/-- A 16-bit immediate: 0..0xFFFF, a negative number modulo 2^16 and not below -32768, a label, or a constant, which is truncated
(R99, R101, D32). DESIGN CHOICE (notes/assumptions/19.md): a label above 0xFFFF is `NumberOutOfRange`. -/
def AsmSymbols.imm16 (y : AsmSymbols) (e : AsmExpr) : Except AsmErrorKind Word := do
  let v ← y.value e
  match e with
  | .ident x =>
    if (y.consts.lookup x).isSome then return BitVec.ofInt 16 v
    let v ← asmRange 0 0xFFFF v
    return BitVec.ofInt 16 v
  | _ =>
    let v ← asmRange (-32768) 0xFFFF v
    return BitVec.ofInt 16 v

/-- A byte of `.db`: a constant is truncated (R101). DESIGN CHOICE (notes/assumptions/19.md): R101 gives an item no range, and a literal is
checked as an 8-bit immediate is, outside -128..255 `NumberOutOfRange`; a label is `InvalidOperand`. -/
def AsmSymbols.dbByte (y : AsmSymbols) (e : AsmExpr) : Except AsmErrorKind Byte := do
  match e with
  | .ident _ =>
    let v ← y.narrow e
    return BitVec.ofInt 8 v
  | _ => y.imm8 e

/-- A register name, `R0`..`R7` (R99). -/
def asmRegister (e : AsmExpr) : Except AsmErrorKind Reg :=
  match e with
  | .ident x =>
    match asmUpper x with
    | "R0" => .ok 0
    | "R1" => .ok 1
    | "R2" => .ok 2
    | "R3" => .ok 3
    | "R4" => .ok 4
    | "R5" => .ok 5
    | "R6" => .ok 6
    | "R7" => .ok 7
    | _ => .error .invalidRegister
  | _ => .error .invalidOperand

/-- The instruction of a mnemonic with its operands (R97, R99). -/
def AsmSymbols.instr (y : AsmSymbols) (mnemonic : String) (ops : List AsmOperand) : Except AsmErrorKind Instr :=
  match asmForm mnemonic, ops with
  | Option.none, _ => .error .invalidMnemonic
  | some (.none i), [] => .ok i
  | some (.reg f), [.plain r] => do return f (← asmRegister r)
  | some (.regs f), [.plain d, .plain r] => do return f (← asmRegister d) (← asmRegister r)
  | some (.load f), [.plain d, .bracket r] => do return f (← asmRegister d) (← asmRegister r)
  | some (.store f), [.bracket d, .plain r] => do return f (← asmRegister d) (← asmRegister r)
  | some (.imm8 f), [.plain d, .plain e] => do return f (← asmRegister d) (← y.imm8 e)
  | some (.imm3 f), [.plain d, .plain e] => do return f (← asmRegister d) (← y.imm3 e)
  | some (.imm16 f), [.plain d, .plain e] => do return f (← asmRegister d) (← y.imm16 e)
  | some (.addr f), [.plain e] => do return f (← y.imm16 e)
  | _, _ => .error .invalidOperand

/-- What pass 1 leaves of a statement for pass 2. -/
inductive AsmPlaced where
  | instr (mnemonic : String) (operands : List AsmOperand)
  | zeros (n : Nat)
  | items (items : List AsmItem)
  | words (items : List AsmExpr)
deriving DecidableEq, Repr

/-- The bytes of an item of `.db` (R101). -/
def AsmItem.size : AsmItem → Nat
  | .expr _ => 1
  | .str bytes => bytes.length

/-- The state of pass 1: the current address and the symbols so far. -/
structure AsmPass1 where
  addr : Nat
  symbols : AsmSymbols
deriving DecidableEq, Repr

/-- A label takes the current address; a second one of the same name is an error (R102). -/
def AsmPass1.label (p : AsmPass1) (x : String) : Except AsmErrorKind AsmPass1 :=
  if (p.symbols.labels.lookup x).isSome then .error .duplicateLabel
  else .ok { p with symbols := { p.symbols with labels := p.symbols.labels ++ [(x, p.addr)] } }

/-- Pass 1 over a statement: its placed form, and the address after it (R101). DESIGN CHOICE on forward references, which
91_not_in_source.md leaves open outside 16-bit operands (notes/assumptions/19.md): the items of `.dw` and `.db` are evaluated in pass 2,
so a later label (in `.dw`) or constant stands there; `.equ`, `.org` and `.ds` are evaluated here, so a name that no earlier line
defines is `UndefinedLabel` there. -/
def AsmPass1.stmt (p : AsmPass1) : AsmStmt → Except AsmErrorKind (Option AsmPlaced × AsmPass1)
  | .label x => do return (Option.none, ← p.label x)
  | .instr m ops =>
    match asmForm m with
    | Option.none => .error .invalidMnemonic
    | some f => .ok (some (.instr m ops), { p with addr := p.addr + f.size })
  | .org e => do
    let v ← p.symbols.value e
    if v < p.addr then .error .invalidDirective
    else return (some (.zeros (v.toNat - p.addr)), { p with addr := v.toNat })
  | .equ x e => do
    let v ← p.symbols.value e
    let v ← asmRange (-2147483648) 2147483647 v
    if (p.symbols.consts.lookup x).isSome then .error .invalidDirective
    else return (Option.none, { p with symbols := { p.symbols with consts := p.symbols.consts ++ [(x, v)] } })
  | .db items => .ok (some (.items items), { p with addr := p.addr + (items.map AsmItem.size).sum })
  | .dw items => .ok (some (.words items), { p with addr := p.addr + 2 * items.length })
  | .ds e => do
    let v ← p.symbols.value e
    if v < 0 then .error .numberOutOfRange
    else return (some (.zeros v.toNat), { p with addr := p.addr + v.toNat })

/-- Pass 1 over the lines: the placed statements in order, each with its line, and all symbols. -/
def AsmPass1.run : (lines : List AsmLine) → (p : AsmPass1) → Except AsmError (List (AsmLine × AsmPlaced) × AsmSymbols)
  | [], p => .ok ([], p.symbols)
  | l :: rest, p => do
    let p ← l.report (l.label.elim (.ok p) p.label)
    match l.stmt with
    | Option.none => AsmPass1.run rest p
    | some st =>
      let (placed, p) ← l.report (p.stmt st)
      let (more, y) ← AsmPass1.run rest p
      return (placed.toList.map (fun x => (l, x)) ++ more, y)

/-- The bytes of an item of `.db` (R101). -/
def AsmSymbols.item (y : AsmSymbols) : AsmItem → Except AsmErrorKind (List Byte)
  | .expr e => do return [← y.dbByte e]
  | .str bytes => .ok bytes

/-- The bytes of a word of `.dw`, little-endian (R101, R62). DESIGN CHOICE (notes/assumptions/19.md): R101 gives an item no range, and the
item is checked as a 16-bit operand is: a number outside -32768..0xFFFF, or a label above 0xFFFF, is `NumberOutOfRange` and not
truncated; a constant is truncated. -/
def AsmSymbols.word (y : AsmSymbols) (e : AsmExpr) : Except AsmErrorKind (List Byte) := do
  let w ← y.imm16 e
  return [lowByte w, highByte w]

/-- Pass 2 over a placed statement: its bytes, with every label known (R98, R101, R102). -/
def AsmSymbols.emit (y : AsmSymbols) : AsmPlaced → Except AsmErrorKind (List Byte)
  | .instr m ops => do return encode (← y.instr m ops)
  | .zeros n => .ok (List.replicate n 0)
  | .items xs => do return (← xs.mapM y.item).flatten
  | .words es => do return (← es.mapM y.word).flatten

/-- The assembler: a flat image, byte 0 at address 0 (R105), or the first error and no output (R104). -/
def assemble (lines : List AsmLine) : Except AsmError (List Byte) := do
  let (placed, y) ← AsmPass1.run lines { addr := 0, symbols := { consts := [], labels := [] } }
  return (← placed.mapM fun x => x.1.report (y.emit x.2)).flatten

end Sys2Proof.Machine
end

