-- ==== Sys2Proof/Machine/AsmText.lean ====
section
/-! DEFINITION. The text of the assembly language (30_encoding.md R96): the tokens of a source line with their columns, and the
statement they make. What the spec leaves open here is in notes/assumptions/19.md. -/

namespace Sys2Proof.Machine

/-- The tokens of R96 but newline and end of file, which end the line. `str` says also whether a backslash stood in it: the bytes
of such a string are unspecified. -/
inductive AsmToken where
  | ident (name : String)
  | num (n : Nat)
  | str (bytes : List Byte) (escaped : Bool)
  | chr (b : Byte)
  | comma
  | colon
  | lbracket
  | rbracket
  | dot
  | plus
  | minus
  | star
deriving DecidableEq, Repr

/-- A letter or `_`, with which an identifier starts (R96). DESIGN CHOICE: the letters are those of ASCII (notes/assumptions/19.md). -/
def asmLetter (c : Char) : Bool := c.isAlpha || c == '_'

/-- A letter, a digit or `_`, with which an identifier goes on (R96). -/
def asmWordChar (c : Char) : Bool := asmLetter c || c.isDigit

/-- The value of a digit. -/
def asmDigit (c : Char) : Nat :=
  if c.isDigit then c.toNat - 0x30 else if c.isUpper then c.toNat - 0x41 + 10 else c.toNat - 0x61 + 10

/-- A digit of a base up to 16. -/
def asmIsDigit (base : Nat) (c : Char) : Bool :=
  (c.isDigit || (0x61 ≤ c.toNat && c.toNat ≤ 0x66) || (0x41 ≤ c.toNat && c.toNat ≤ 0x46)) && asmDigit c < base

/-- The number written by digits, the most significant first. -/
def asmNumber (base : Nat) (ds : List Char) : Nat := ds.foldl (fun n c => base * n + asmDigit c) 0

/-- Punctuation (R96). -/
def asmPunct (c : Char) : Option AsmToken :=
  match c with
  | ',' => some .comma
  | ':' => some .colon
  | '[' => some .lbracket
  | ']' => some .rbracket
  | '.' => some .dot
  | '+' => some .plus
  | '-' => some .minus
  | '*' => some .star
  | _ => none

/-- What the escape `\\c` of a character literal stands for (R96). -/
def asmEscape (c : Char) : Option Byte :=
  match c with
  | 'n' => some 0x0A
  | 'r' => some 0x0D
  | 't' => some 0x09
  | '0' => some 0x00
  | '\\' => some 0x5C
  | '\'' => some 0x27
  | _ => none

/-- The ASCII code of a character (R96). -/
def asmByte (c : Char) : Option Byte := if c.toNat < 128 then some (BitVec.ofNat 8 c.toNat) else none

/-- The characters of a string after its opening quote: its bytes, whether a backslash stood in it, and what follows the closing
quote. A backslash passes the next character through, so that an escaped quote does not end the string (R96). -/
def asmString : List Char → Except AsmErrorKind (List Byte × Bool × List Char)
  | [] => .error .unterminatedString
  | '"' :: rest => .ok ([], false, rest)
  | '\\' :: c :: rest => do
    let (bs, _, after) ← asmString rest
    match asmByte c with
    | some b => return (b :: bs, true, after)
    | none => .error .unexpectedToken
  | c :: rest => do
    let (bs, e, after) ← asmString rest
    match asmByte c with
    | some b => return (b :: bs, e, after)
    | none => .error .unexpectedToken

/-- The first token of a text that begins with no space and no comment, and the text after it (R96). DESIGN CHOICE
(notes/assumptions/19.md): between quotes a backslash that begins no escape because the closing quote follows it is the character
0x5C, and a single quote is the character 0x27; a number ends at the first character that is no digit of its base. -/
def asmToken : List Char → Except AsmErrorKind (AsmToken × List Char)
  | '0' :: 'x' :: rest =>
    match rest.takeWhile (asmIsDigit 16) with
    | [] => .error .unexpectedToken
    | ds => .ok (.num (asmNumber 16 ds), rest.dropWhile (asmIsDigit 16))
  | '0' :: 'b' :: rest =>
    match rest.takeWhile (asmIsDigit 2) with
    | [] => .error .unexpectedToken
    | ds => .ok (.num (asmNumber 2 ds), rest.dropWhile (asmIsDigit 2))
  | '"' :: rest => do
    let (bs, e, after) ← asmString rest
    return (.str bs e, after)
  | '\'' :: '\\' :: c :: '\'' :: rest =>
    match asmEscape c with
    | some b => .ok (.chr b, rest)
    | none => .error .unexpectedToken
  | '\'' :: c :: '\'' :: rest =>
    match asmByte c with
    | some b => .ok (.chr b, rest)
    | none => .error .unexpectedToken
  | c :: rest =>
    if asmLetter c then .ok (.ident (String.ofList (c :: rest.takeWhile asmWordChar)), rest.dropWhile asmWordChar)
    else if c.isDigit then .ok (.num (asmNumber 10 (c :: rest.takeWhile (asmIsDigit 10))), rest.dropWhile (asmIsDigit 10))
    else match asmPunct c with
      | some t => .ok (t, rest)
      | none => .error .unexpectedToken
  | [] => .error .unexpectedToken

/-- The tokens of a line of length `len`, each with its 1-based column; a `;` starts a comment to the end of the line (R96).
Every token takes at least one character, so `fuel` characters are enough. DESIGN CHOICE (notes/assumptions/19.md): the whitespace
that is skipped is the space, the tab and the carriage return; R96 does not list it. -/
def asmTokens (len : Nat) : (fuel : Nat) → List Char → Except (AsmErrorKind × Nat) (List (AsmToken × Nat))
  | 0, _ => .ok []
  | _, [] => .ok []
  | fuel + 1, c :: rest =>
    if c = ';' then .ok []
    else if c = ' ' || c = '\t' || c = '\r' then asmTokens len fuel rest
    else do
      let column := len - rest.length
      let (t, after) ← (asmToken (c :: rest)).mapError fun k => (k, column)
      let more ← asmTokens len fuel after
      return ((t, column) :: more)

/-! The statement of a line -/

/-- An immediate at the head of the tokens: a number, with or without a leading `-`, a character, or an identifier (R99). -/
def asmExpr : List AsmToken → Except AsmErrorKind (AsmExpr × List AsmToken)
  | .num n :: rest => .ok (.num n, rest)
  | .minus :: .num n :: rest => .ok (.neg n, rest)
  | .chr b :: rest => .ok (.chr b, rest)
  | .ident x :: rest => .ok (.ident x, rest)
  | _ => .error .unexpectedToken

/-- An operand at the head of the tokens (R97). -/
def asmOperand : List AsmToken → Except AsmErrorKind (AsmOperand × List AsmToken)
  | .lbracket :: rest => do
    match ← asmExpr rest with
    | (e, .rbracket :: after) => return (.bracket e, after)
    | _ => .error .unexpectedToken
  | ts => do
    let (e, after) ← asmExpr ts
    return (.plain e, after)

/-- An item of `.db` at the head of the tokens (R101). A string with a backslash is refused: its bytes are unspecified. -/
def asmItem : List AsmToken → Except AsmErrorKind (AsmItem × List AsmToken)
  | .str bs escaped :: rest => if escaped then .error .invalidOperand else .ok (.str bs, rest)
  | ts => do
    let (e, after) ← asmExpr ts
    return (.expr e, after)

/-- One or more of something, separated by commas, up to the end of the line (R96). -/
def asmList {α : Type} (one : List AsmToken → Except AsmErrorKind (α × List AsmToken)) :
    (fuel : Nat) → List AsmToken → Except AsmErrorKind (List α)
  | 0, _ => .error .unexpectedToken
  | fuel + 1, ts => do
    match ← one ts with
    | (a, []) => return [a]
    | (a, .comma :: rest) => return a :: (← asmList one fuel rest)
    | _ => .error .unexpectedToken

/-- A directive's name and its arguments (R101); names are case-insensitive (R103). -/
def asmDirective (name : String) (ts : List AsmToken) : Except AsmErrorKind AsmStmt :=
  match asmUpper name with
  | "ORG" => do
    match ← asmExpr ts with
    | (e, []) => return .org e
    | _ => .error .unexpectedToken
  | "EQU" =>
    match ts with
    | .ident x :: .comma :: rest => do
      match ← asmExpr rest with
      | (e, []) => return .equ x e
      | _ => .error .unexpectedToken
    | _ => .error .unexpectedToken
  | "DB" => do return .db (← asmList asmItem ts.length ts)
  | "DW" => do return .dw (← asmList asmExpr ts.length ts)
  | "DS" => do
    match ← asmExpr ts with
    | (e, []) => return .ds e
    | _ => .error .unexpectedToken
  | _ => .error .invalidDirective

/-- The statement of a line after the label that may precede it: a label, a directive or an instruction (R96). -/
def asmStmt : List AsmToken → Except AsmErrorKind (Option AsmStmt)
  | [] => .ok none
  | [.ident x, .colon] => .ok (some (.label x))
  | .dot :: .ident x :: rest => do return some (← asmDirective x rest)
  | [.ident m] => .ok (some (.instr m []))
  | .ident m :: rest => do return some (.instr m (← asmList asmOperand rest.length rest))
  | _ => .error .unexpectedToken

/-- The label that precedes and the statement of a line (R96). The statement may be a label too, so a line `a: b:` has two; a line
`a: b: NOP` has two statements after its label, where R96 allows one, and is an error. -/
def asmStatement : List AsmToken → Except AsmErrorKind (Option String × Option AsmStmt)
  | .ident x :: .colon :: rest => do return (some x, ← asmStmt rest)
  | ts => do return (none, ← asmStmt ts)

/-- A source line, from its text and its 1-based number (R96, R104). -/
def asmLine (number : Nat) (text : List Char) : Except AsmError AsmLine := do
  let tokens ← (asmTokens text.length text.length text).mapError fun e => { kind := e.1, line := number, column := e.2 }
  let column := (tokens.head?.map Prod.snd).getD 1
  let at_ : AsmLine := { line := number, column := column }
  let (label, stmt) ← at_.report (asmStatement (tokens.map Prod.fst))
  return { at_ with label := label, stmt := stmt }

/-- The lines of a text, which newlines end (R96). -/
def asmSplit : List Char → List (List Char)
  | [] => [[]]
  | c :: rest =>
    if c = '\n' then [] :: asmSplit rest
    else match asmSplit rest with
      | [] => [[c]]
      | l :: ls => (c :: l) :: ls

/-- The source lines of a text, each with its number. -/
def asmLines : (number : Nat) → List (List Char) → Except AsmError (List AsmLine)
  | _, [] => .ok []
  | number, l :: ls => do
    let line ← asmLine number l
    return line :: (← asmLines (number + 1) ls)

/-- The assembler on a text: a flat image, or the first error and no output (R96, R104, R105). -/
def assembleText (text : List Char) : Except AsmError (List Byte) := do
  assemble (← asmLines 1 (asmSplit text))

end Sys2Proof.Machine
end

