-- ==== Sys2Proof/Machine/HostInterface.lean ====
section
/-! DEFINITION. The host's commands and queries (60_exceptions.md R289 to R294, 70_reset_and_hazards.md R301 to R303, 41_console.md R152 to
R156, 20_memory.md R54 to R56). Each runs to completion between two instructions (R291). No command writes the model's own
`params`, and none sets `freeCount` back (notes/assumptions/18.md). -/

namespace Sys2Proof.Machine

/-! Reset and loading -/

/-- `init()`: memory and CPU take their reset values (R301, R37). -/
def State.init (s : State) : State := { State.initial s.params with freeCount := s.freeCount }

/-- The console after `reset_cpu()`, under `RESET_CPU_CONSOLE` (R37, D21). -/
def State.consoleAfterResetCpu (s : State) : Console :=
  match s.params.resetCpuConsole with
  | .kept => s.console
  | .cleared => (State.initial s.params).console

/-- `reset_cpu()`: the CPU takes its reset values, memory and devices are kept (R302). -/
def State.resetCpu (s : State) : State :=
  { s.init with
    console := s.consoleAfterResetCpu
    mem := s.mem
    sysTimer := s.sysTimer
    countdown := s.countdown
    keyCode := s.keyCode
    keyState := s.keyState }

/-- The most bytes `load_program` copies (R6, R303). -/
def maxProgramBytes : Nat := 16384

/-- Bytes written directly into a store, at index `k` and upward. -/
def Memory.load : (bs : List Byte) → (k : Nat) → Memory → Memory
  | [], _, m => m
  | b :: bs, k, m => Memory.load bs (k + 1) (m.write k b)

/-- `load_program(bytes)`: at most 16,384 bytes to 0x0000 and upward; the rest is dropped, nothing else changes (R303). -/
def State.loadProgram (bytes : List Byte) (s : State) : State :=
  { s with mem := Memory.load (bytes.take maxProgramBytes) 0 s.mem }

/-! Running -/

/-- What one turn of the loop of R290 comes to: the call returns, or the loop goes on, with the state and the cycles used so far. -/
inductive HostTurn where
  | returns (s : State) (run : Nat)
  | goesOn (s : State) (run : Nat)
  /-- The instruction step answered no next state. No step does (R271). -/
  | stuck
deriving DecidableEq, Repr

/-- One turn of the loop of R290, `run` cycles used so far: the budget and the run control are tested before the instruction, the
display request after it. -/
def State.hostTurn (maxCycles run : Nat) (s : State) : HostTurn :=
  if run < maxCycles && !s.halted && !s.waitingForInput then
    match step s with
    | .next t =>
      if t.displayRequested && (s.params.stepPendingDisplay == .one || s.fetchInstr.1 == .display) then
        .returns t (run + s.stepCost)
      else .goesOn t (run + s.stepCost)
    | .fault _ => .stuck
    | .refused _ => .stuck
  else .returns s run

/-- The loop of R290, `run` cycles used so far. The loop has no bound of its own: under a cost table with a zero entry it may never
end, and there its least fixpoint is `none` (notes/assumptions/13.md). -/
def State.hostStepLoop (maxCycles run : Nat) (s : State) : Option (State × Nat) :=
  match s.hostTurn maxCycles run with
  | .returns t r => some (t, r)
  | .goesOn t r => State.hostStepLoop maxCycles r t
  | .stuck => none
partial_fixpoint

/-- The host's `step(max_cycles)`: the state after it and the cycles it returns (R290); `none` exactly where the loop of R290 never ends,
which no call does where every cost is at least 1. -/
def State.hostStep (maxCycles : Nat) (s : State) : Option (State × Nat) := s.hostStepLoop maxCycles 0

/-- The loop of R290 cut after `fuel` turns, in a form that evaluates: what it answers, `hostStepLoop` answers
(`State.hostStepLoop_eq_some_iff` of Sys2Proof/Laws/Host.lean). -/
def State.hostStepWithin (maxCycles : Nat) : (fuel : Nat) → (run : Nat) → State → Option (State × Nat)
  | 0, _, _ => none
  | fuel + 1, run, s =>
    match s.hostTurn maxCycles run with
    | .returns t r => some (t, r)
    | .goesOn t r => State.hostStepWithin maxCycles fuel r t
    | .stuck => none

/-- `is_halted()` (R293). -/
def State.isHalted (s : State) : Bool := s.halted

/-- `display_requested()` (R293). -/
def State.queryDisplayRequested (s : State) : Bool := s.displayRequested

/-- `consume_display()` (R292). -/
def State.consumeDisplay (s : State) : State := { s with displayRequested := false }

/-! Devices -/

/-- `tick_timers(delta)`: the system timer wraps, the countdown stops at zero (R280). -/
def State.tickTimers (delta : Nat) (s : State) : State :=
  { s with
    sysTimer := BitVec.ofNat 16 (s.sysTimer.toNat + delta)
    countdown := if delta < s.countdown.toNat then BitVec.ofNat 16 (s.countdown.toNat - delta) else 0 }

/-- `set_key(code, pressed)`: a release keeps the last key (R281). -/
def State.setKey (code : Byte) (pressed : Bool) (s : State) : State :=
  if pressed then { s with keyCode := code, keyState := 1 } else { s with keyState := 0 }

/-- The keys of R282. -/
inductive Key where
  /-- 'A'..'Z', as 0..25. -/
  | letter (k : Fin 26)
  /-- '0'..'9'. -/
  | digit (k : Fin 10)
  | space
  | enter
  | escape
  | backspace
  | tab
  | up
  | down
  | left
  | right
  | shift
  | control
  | alt
  /-- F1..F9, as 0..8. -/
  | function (k : Fin 9)
deriving DecidableEq, Repr

/-- The key code the host delivers for each key (R282). -/
def keyCodeOf : Key → Byte
  | .letter k => BitVec.ofNat 8 (0x41 + k.val)
  | .digit k => BitVec.ofNat 8 (0x30 + k.val)
  | .space => 0x20
  | .enter => 0x0D
  | .escape => 0x1B
  | .backspace => 0x08
  | .tab => 0x09
  | .up => 0x80
  | .down => 0x81
  | .left => 0x82
  | .right => 0x83
  | .shift => 0x84
  | .control => 0x85
  | .alt => 0x86
  | .function k => BitVec.ofNat 8 (0x90 + k.val)

/-! Inspection -/

/-- `cycles_executed()` (R285, R294). -/
def State.cyclesExecuted (s : State) : BitVec 64 := s.cycles

/-- `pc()` (R294). -/
def State.queryPc (s : State) : Word := s.pc

/-- `sp()` (R294). -/
def State.querySp (s : State) : Word := s.sp

/-- `register(i)`, for i in 0..7 only (R294, D29). -/
def State.queryRegister (s : State) (i : Reg) : Word := s.reg i

/-- `flags()`: the packed flag byte (R28, R294). -/
def State.queryFlags (s : State) : Byte := flagByte s.flags

/-! The console -/

/-- `console_bytes()`: the whole ring, index 0 first (R152). -/
def State.consoleBytes (s : State) : List Byte := s.console.cbuf.slice 0 consoleCapacity

/-- The most recent bytes in order, as the host reconstructs them from `console_bytes()`, `console_length()` and
`console_write_pos()` (R152). -/
def State.consoleView (s : State) : List Byte :=
  if s.console.clen < consoleCapacity then s.console.cbuf.slice 0 s.console.clen
  else s.console.cbuf.slice s.console.cpos (consoleCapacity - s.console.cpos) ++ s.console.cbuf.slice 0 s.console.cpos

/-- `console_length()` (R153). -/
def State.consoleLength (s : State) : Word := BitVec.ofNat 16 s.console.clen

/-- `console_write_pos()` (R154). -/
def State.consoleWritePos (s : State) : Word := BitVec.ofNat 16 s.console.cpos

/-- `consume_console_update()`: the value of `cupd`, and the state with `cupd` false (R155). -/
def State.consumeConsoleUpdate (s : State) : Bool × State :=
  (s.console.cupd, { s with console := { s.console with cupd := false } })

/-- `clear_console()`: empty, every byte 0x00, `cupd` kept (R156). -/
def State.clearConsole (s : State) : State :=
  { s with console := { cbuf := [], cpos := 0, clen := 0, cupd := s.console.cupd } }

/-! The framebuffer -/

/-- The first address of the framebuffer (R52, R54). -/
def framebufferBase : Nat := 0x4000

/-- `framebuffer_pointer()`: the 16,384 bytes of the framebuffer, read-only (R56). -/
def State.framebuffer (s : State) : List Byte := s.mem.slice framebufferBase 16384

/-- The address of pixel (x, y) (R54). -/
def pixelAddr (x y : Fin 128) : Word := BitVec.ofNat 16 (framebufferBase + y.val * 128 + x.val)

/-- The column of a framebuffer address: `(a - 0x4000)[6:0]` (R54). -/
def pixelX (a : Word) : BitVec 7 := (a - 0x4000).extractLsb' 0 7

/-- The row of a framebuffer address: `(a - 0x4000)[13:7]` (R54). -/
def pixelY (a : Word) : BitVec 7 := (a - 0x4000).extractLsb' 7 7

/-- The colour the host shows for a framebuffer byte, RGB332 (R55): each channel is rounded, `round(c * 255 / max)`, to the
nearest (no channel value falls halfway). The conversion is the host's; nothing in the CPU depends on it. -/
def rgb332 (p : Byte) : Nat × Nat × Nat :=
  let r3 := (p.extractLsb' 5 3).toNat
  let g3 := (p.extractLsb' 2 3).toNat
  let b2 := (p.extractLsb' 0 2).toNat
  ((r3 * 255 * 2 + 7) / 14, (g3 * 255 * 2 + 7) / 14, (b2 * 255 * 2 + 3) / 6)

end Sys2Proof.Machine
end

