-- ==== Sys2Proof/Safety.lean ====
section
/-! DEFINITION. The terms the claims use: the invariant of the machine, what an instruction may change, and what it
means that an instruction runs. -/

namespace Sys2Proof.Machine

/-! The invariant -/

/-- The console is sound (R31, R142, R143, R157): the ring is canonical within its 4,096 bytes, the position and the length are in
range, the valid bytes are printable and the others 0x00, and until the ring is full the position is the length. -/
structure Console.Wf (c : Console) : Prop where
  canonical : c.cbuf.canonical 0 consoleCapacity = true
  pos : c.cpos < consoleCapacity
  len : c.clen ≤ consoleCapacity
  filling : c.clen < consoleCapacity → c.cpos = c.clen
  valid : ∀ k, k < c.clen → printable (c.cbuf.read k) = true
  unwritten : ∀ k, c.clen ≤ k → c.cbuf.read k = 0

/-- The invariant every command and every step keeps: canonical memory (R33), a sound console, `waiting_for_input` false
(R29) and `key_state` 0 or 1 (R32). -/
structure State.Inv (s : State) : Prop where
  mem : s.mem.wf = true
  console : s.console.Wf
  waiting : s.waitingForInput = false
  key : s.keyState.toNat ≤ 1

/-! What an instruction may change -/

/-- What may change: the registers listed, the fields marked `true`, and the bytes of the range `bytes` (its first address and its
length, modulo 2^16). Everything not named here stays. -/
structure Touch where
  regs : List Reg := []
  flags : Bool := false
  pc : Bool := false
  sp : Bool := false
  halted : Bool := false
  display : Bool := false
  console : Bool := false
  bytes : Word × Nat := (0, 0)

/-- From `s` to `t` only what `w` names has changed. Memory is what the program reads (R57), so the countdown timer is part of it.
The cycle counter and the model's own `freeCount` are not spoken of. -/
structure Frame (w : Touch) (s t : State) : Prop where
  regs : ∀ r, r ∉ w.regs → t.reg r = s.reg r
  flags : w.flags = false → t.flags = s.flags
  pc : w.pc = false → t.pc = s.pc
  sp : w.sp = false → t.sp = s.sp
  halted : w.halted = false → t.halted = s.halted
  display : w.display = false → t.displayRequested = s.displayRequested
  console : w.console = false → t.console = s.console
  waiting : t.waitingForInput = s.waitingForInput
  sysTimer : t.sysTimer = s.sysTimer
  keyCode : t.keyCode = s.keyCode
  keyState : t.keyState = s.keyState
  params : t.params = s.params
  bytes : ∀ a, w.bytes.2 ≤ (a - w.bytes.1).toNat → t.read8 a = s.read8 a

/-! What it means that an instruction runs -/

/-- The bytes decode to `i`, and `i` completes in `s`: it answers a next state whose cycle counter has grown by `cost`, in which
only what `w` names has changed, and which satisfies `post`. -/
def Runs (s : State) (i : Instr) (bytes : List Byte) (cost : Nat) (w : Touch) (post : State → Prop) : Prop :=
  decode bytes = .ok (i, []) ∧
    ∃ t, exec i s = .next t ∧ t.cycles = s.cycles + BitVec.ofNat 64 cost ∧ Frame w s t ∧ post t

end Sys2Proof.Machine
end

