-- ==== Sys2Proof/Certificates/Slice0/Obligations.lean ====
section
/-! DEFINITION. The statements for the provers. Each docstring names the rule of spec/ it formalises; the terms `Runs`, `Frame`
and `Inv` are those of Sys2Proof/Safety.lean. -/

open Sys2Proof Sys2Proof.Machine

/-! Terms of the statements -/

/-- The bytes a write changes what is read at: the store and the countdown timer (R52). -/
def Sys2Proof.Claims.Writable (a : Word) : Prop := a.toNat < 0xFFF0 ∨ a = 0xFFF2 ∨ a = 0xFFF3

/-- From `s` to `t` the byte `v` went to `a`: it is read there afterwards, or `a` is read-only or reserved and
reads as before (R59, R77). -/
def Sys2Proof.Claims.ByteStored (s t : State) (a : Word) (v : Byte) : Prop :=
  (Claims.Writable a → t.read8 a = v) ∧ (¬ Claims.Writable a → t.read8 a = s.read8 a)

/-- From `s` to `t` the word `v` went to `a` and `a + 1`, low byte first (R60). -/
def Sys2Proof.Claims.WordStored (s t : State) (a v : Word) : Prop :=
  Claims.ByteStored s t a (v.extractLsb' 0 8) ∧ Claims.ByteStored s t (a + 1) (v.extractLsb' 8 8)

/-- The word at `a` is the number made of the bytes at `a` and `a + 1` (R58). -/
def Sys2Proof.Claims.wordAt (s : State) (a : Word) : Word :=
  BitVec.ofNat 16 ((s.read8 a).toNat + 256 * (s.read8 (a + 1)).toNat)

/-- `IMM(b)` under `IMM8_EXT` (R90). -/
def Sys2Proof.Claims.immOf (s : State) (b : Byte) : Word :=
  match s.params.imm8Ext with
  | .zero => BitVec.zeroExtend 16 b
  | .sign => BitVec.signExtend 16 b

/-- The number of the packed flag byte: Z is bit 0, C bit 1, N bit 2, V bit 3 (R26). -/
def Sys2Proof.Claims.flagNumber (f : Flags) : Nat := f.z.toNat + 2 * f.c.toNat + 4 * f.n.toNat + 8 * f.v.toNat

/-- Z and N are those of the result `r` (R201). -/
def Sys2Proof.Claims.ZeroNegative (r : Word) (f : Flags) : Prop := (f.z = true ↔ r = 0) ∧ f.n = r.getLsbD 15

/-- The flags of the sum `a + b` (R181). -/
def Sys2Proof.Claims.SumFlags (a b : Word) (f : Flags) : Prop :=
  Claims.ZeroNegative (a + b) f ∧ (f.c = true ↔ a + b < a) ∧
    (f.v = true ↔ a.getLsbD 15 = b.getLsbD 15 ∧ (a + b).getLsbD 15 ≠ a.getLsbD 15)

/-- The flags of the difference `a - b` (R182). -/
def Sys2Proof.Claims.DifferenceFlags (a b : Word) (f : Flags) : Prop :=
  Claims.ZeroNegative (a - b) f ∧ (f.c = true ↔ a < b) ∧
    (f.v = true ↔ a.getLsbD 15 ≠ b.getLsbD 15 ∧ (a - b).getLsbD 15 = b.getLsbD 15)

/-- The flags `f` after a logical result `r`: C and V are those of `g` (R201). -/
def Sys2Proof.Claims.LogicFlags (r : Word) (g f : Flags) : Prop := Claims.ZeroNegative r f ∧ f.c = g.c ∧ f.v = g.v

/-- `Shift(kind, v, d)` gave `r` and turned the flags `g` into `f` (R209), as numbers: left is the product modulo 2^16, logical
right the quotient, arithmetic right the quotient of the signed number rounded down. -/
def Sys2Proof.Claims.Shifted (kind : ShiftKind) (v : Word) (d : Nat) (g : Flags) (r : Word) (f : Flags) : Prop :=
  (match kind with
    | .shl => r.toNat = v.toNat * 2 ^ d % 65536
    | .shr => r.toNat = v.toNat / 2 ^ d
    | .sar => r.toInt = v.toInt / 2 ^ d) ∧
  Claims.ZeroNegative r f ∧ f.v = g.v ∧ (d = 0 → f.c = g.c) ∧
  (0 < d → f.c = match kind with
    | .shl => v.getLsbD (16 - d)
    | .shr => v.getLsbD (d - 1)
    | .sar => v.getLsbD (d - 1))

/-- The conditional jump `i` of opcode `op`, with its entry `e` of the cost table, runs and is taken when `cond` holds: the target then, else
the next instruction; the entry's taken cost then, else its other; nothing but `pc` and the counter changes (R239). -/
def Sys2Proof.Claims.JumpsWhen (s : State) (addr : Word) (i : Instr) (op : Byte) (e : JccCost) (cond : Bool) : Prop :=
  Runs s i [op, addr.extractLsb' 0 8, addr.extractLsb' 8 8] (if cond then e.taken else e.notTaken) { pc := true }
    fun t => t.pc = if cond then addr else s.pc

/-- `u` is the course of the ascending loop of MEMCPY from `s`: step `i` moves the byte then read at `src + i` to `dst + i` and changes
no other byte (R261). -/
def Sys2Proof.Claims.CopyCourse (s : State) (src dst : Word) (n : Nat) (u : Nat → State) : Prop :=
  u 0 = s ∧ ∀ i, i < n →
    Claims.ByteStored (u i) (u (i + 1)) (dst + BitVec.ofNat 16 i) ((u i).read8 (src + BitVec.ofNat 16 i)) ∧
    ∀ b, b ≠ dst + BitVec.ofNat 16 i → (u (i + 1)).read8 b = (u i).read8 b

/-- After the instruction that took `s` to `t` the call of the host's `step` returns for the display request: it stands, and the parameter is
`one` or the opcode was that of DISPLAY (R290). -/
def Sys2Proof.Claims.DisplayStops (s t : State) : Prop :=
  t.displayRequested = true ∧ (s.params.stepPendingDisplay = .one ∨ s.read8 s.pc = 0x02)

/-- `n` turns of the loop of R290 from `s`: `u i` is the state and `run i` the cycles used before turn `i`. Each turn finds budget left and no
stop, runs one instruction and adds its cost; no turn but the last may leave a display request that ends the call. -/
structure Sys2Proof.Claims.LoopCourse (maxCycles : Nat) (s : State) (n : Nat) (u : Nat → State) (run : Nat → Nat) : Prop where
  start : u 0 = s ∧ run 0 = 0
  tested : ∀ i, i < n → run i < maxCycles ∧ (u i).halted = false ∧ (u i).waitingForInput = false
  stepped : ∀ i, i < n → step (u i) = .next (u (i + 1)) ∧ run (i + 1) = run i + (u i).stepCost
  goesOn : ∀ i, i + 1 < n → ¬ Claims.DisplayStops (u i) (u (i + 1))

/-- Every instruction costs at least one cycle under the parameters of `s`. -/
def Sys2Proof.Claims.PositiveCosts (s : State) : Prop :=
  ∀ (i : Instr) (u : State), u.params = s.params → 1 ≤ instrCost i u

/-! Encoding -/

/-- Decoding the encoding of a well-formed instruction gives it back, with the bytes after it, for all 64
instructions and the unknown opcodes, at every operand (R87, R89, R92, R93). -/
def Obligations.DecodeOfEncodeIsIdentity : Prop :=
  ∀ (i : Instr) (rest : List Byte), i.wellFormed = true → decode (encode i ++ rest) = .ok (i, rest)

/-- R106, whole: the worked encoding of the source and the derived encodings, as the assembler of the model emits them from the text and
as the decoder reads them back. -/
def Obligations.WorkedEncodingsAssembleAndDecode : Prop :=
  (assembleText "JMP end\nNOP\nend: HALT".toList).toOption = some [0x50, 0x04, 0x00, 0x00, 0x01] ∧
  (decode [0x50, 0x04, 0x00, 0x00, 0x01]).toOption = some (.jmp 0x0004, [0x00, 0x01]) ∧
  (decode [0x00, 0x01]).toOption = some (.nop, [0x01]) ∧ (decode [0x01]).toOption = some (.halt, []) ∧
  (assembleText "MOVI R0,0x4000".toList).toOption = some [0x11, 0x00, 0x00, 0x40] ∧
  (decode [0x11, 0x00, 0x00, 0x40]).toOption = some (.movi 0 0x4000, []) ∧
  (assembleText "MOVI R1,0xE0".toList).toOption = some [0x11, 0x20, 0xE0, 0x00] ∧
  (decode [0x11, 0x20, 0xE0, 0x00]).toOption = some (.movi 1 0x00E0, []) ∧
  (assembleText "SUB R0,R1".toList).toOption = some [0x22, 0x04] ∧ (decode [0x22, 0x04]).toOption = some (.sub 0 1, []) ∧
  (assembleText "PUTI R0".toList).toOption = some [0x08, 0x00] ∧ (decode [0x08, 0x00]).toOption = some (.puti 0, []) ∧
  (assembleText "SHLI R3,5".toList).toOption = some [0x3A, 0x74] ∧ (decode [0x3A, 0x74]).toOption = some (.shli 3 5, []) ∧
  (assembleText "STORE [R7],R2".toList).toOption = some [0x14, 0xE8] ∧ (decode [0x14, 0xE8]).toOption = some (.store 7 2, []) ∧
  (assembleText "ADDI R2,-1".toList).toOption = some [0x21, 0x40, 0xFF] ∧
  (decode [0x21, 0x40, 0xFF]).toOption = some (.addi 2 0xFF, [])

/-- R95 with R86 and R93: every sequence of four bytes or more decodes to one well-formed instruction, that of its first byte; the first
byte alone gives the length; an opcode of R93 gives the 1-byte unknown instruction and no other opcode does. -/
def Obligations.DecodingIsTotalByTheFirstByte : Prop :=
  ∀ (op b1 b2 b3 : Byte) (rest : List Byte), ∃ i : Instr,
    decode (op :: b1 :: b2 :: b3 :: rest) = .ok (i, (op :: b1 :: b2 :: b3 :: rest).drop (formatOf op).length) ∧
      i.wellFormed = true ∧ opcodeOf i = op ∧ i.length = (formatOf op).length ∧
      (i = .unknown op ↔ isUnknownOpcode op = true) ∧ (isUnknownOpcode op = true → i.length = 1)

/-- R91: two words that differ only in bits their format ignores execute alike, in every state. NOT (0x36) reads its `rs` field under
`NOT_SRC = Rs` (R208), so there the field must agree. -/
def Obligations.IgnoredBitsHaveNoEffect : Prop :=
  ∀ (s : State) (op b1 c1 b2 b3 : Byte),
    (match formatOf op with
      | .O => True
      | .RR => b1.extractLsb' 5 3 = c1.extractLsb' 5 3 ∧ b1.extractLsb' 2 3 = c1.extractLsb' 2 3
      | .RSH => b1.extractLsb' 5 3 = c1.extractLsb' 5 3 ∧ b1.extractLsb' 2 3 = c1.extractLsb' 2 3
      | .RD => b1.extractLsb' 5 3 = c1.extractLsb' 5 3 ∧
          (op = 0x36 → s.params.notSrc = .rs → b1.extractLsb' 2 3 = c1.extractLsb' 2 3)
      | .RS => b1.extractLsb' 2 3 = c1.extractLsb' 2 3
      | .RI8 => b1.extractLsb' 5 3 = c1.extractLsb' 5 3
      | .RI16 => b1.extractLsb' 5 3 = c1.extractLsb' 5 3
      | .A16 => b1 = c1) →
    exec (decodeBytes op b1 b2 b3) s = exec (decodeBytes op c1 b2 b3) s

/-! The step -/

/-- R127, R128: a machine that is not halted runs the instruction that the bytes at `pc` decode to, each read through the overlay, in the
state whose `pc` is past them. -/
def Obligations.StepRunsTheDecodedInstruction : Prop :=
  ∀ (s : State) (i : Instr) (rest : List Byte), s.halted = false →
    decode [s.read8 s.pc, s.read8 (s.pc + 1), s.read8 (s.pc + 2), s.read8 (s.pc + 3)] = .ok (i, rest) →
    step s = exec i { s with pc := s.pc + BitVec.ofNat 16 i.length } ∧
      s.stepCost = instrCost i { s with pc := s.pc + BitVec.ofNat 16 i.length }

/-- R126: a halted machine does not change, and the step costs 0. -/
def Obligations.HaltedStepChangesNothing : Prop :=
  ∀ s : State, s.halted = true → step s = .next s ∧ s.stepCost = 0

/-- R271: no instruction in any state faults or is refused, and no step is. -/
def Obligations.EveryStepAnswersNext : Prop :=
  (∀ (i : Instr) (s : State), ∃ t, exec i s = .next t) ∧ ∀ s : State, ∃ t, step s = .next t

/-- R128, R321: a step adds its cost to the counter, modulo 2^64, and nothing else moves the counter. -/
def Obligations.StepAddsItsCost : Prop :=
  ∀ s t : State, step s = .next t → t.cycles = s.cycles + BitVec.ofNat 64 s.stepCost

/-- R318 with R319 and R320: the cost of every instruction under the default table. `N` of PUTS is the number of bytes of its string (stated with
PUTS); of the block operations it is R2. That the cost goes to the counter is `StepAddsItsCost`. The table is a parameter (R7): that reset has the
default one is the spec's default and the model's choice, marked DESIGN CHOICE in notes/assumptions/7.md. -/
def Obligations.DefaultCycleCosts : Prop :=
  State.reset.params.cycleCost = defaultCycleCost ∧
  ∀ (s : State) (rd rs : Reg) (imm op : Byte) (dist : BitVec 3) (w : Word), s.params.cycleCost = defaultCycleCost →
    instrCost .nop s = 1 ∧ instrCost .halt s = 1 ∧ instrCost .display s = 1000 ∧ instrCost .ret s = 5 ∧
    instrCost .pushf s = 3 ∧ instrCost .popf s = 3 ∧ instrCost (.putc rs) s = 2 ∧
    instrCost (.puts rs) s = 3 + (s.readString 256 (s.reg rs)).length ∧ instrCost (.puti rs) s = 8 ∧
    instrCost (.putx rs) s = 6 ∧ instrCost (.mov rd rs) s = 2 ∧ instrCost (.movi rd w) s = 3 ∧
    instrCost (.load rd rs) s = 4 ∧ instrCost (.loadb rd rs) s = 3 ∧ instrCost (.store rd rs) s = 4 ∧
    instrCost (.storeb rd rs) s = 3 ∧ instrCost (.push rs) s = 4 ∧ instrCost (.pop rd) s = 4 ∧
    instrCost (.add rd rs) s = 2 ∧ instrCost (.addi rd imm) s = 3 ∧ instrCost (.sub rd rs) s = 2 ∧
    instrCost (.subi rd imm) s = 3 ∧ instrCost (.mul rd rs) s = 8 ∧ instrCost (.div rd rs) s = 12 ∧
    instrCost (.inc rd) s = 2 ∧ instrCost (.dec rd) s = 2 ∧ instrCost (.neg rd) s = 2 ∧
    instrCost (.and rd rs) s = 2 ∧ instrCost (.andi rd imm) s = 3 ∧ instrCost (.or rd rs) s = 2 ∧
    instrCost (.ori rd imm) s = 3 ∧ instrCost (.xor rd rs) s = 2 ∧ instrCost (.xori rd imm) s = 3 ∧
    instrCost (.not rd rs) s = 2 ∧ instrCost (.shl rd rs) s = 2 ∧ instrCost (.shr rd rs) s = 2 ∧
    instrCost (.sar rd rs) s = 2 ∧ instrCost (.shli rd dist) s = 2 ∧ instrCost (.shri rd dist) s = 2 ∧
    instrCost (.sari rd dist) s = 2 ∧ instrCost (.cmp rd rs) s = 2 ∧ instrCost (.cmpi rd imm) s = 3 ∧
    instrCost (.test rd rs) s = 2 ∧ instrCost (.testi rd imm) s = 3 ∧ instrCost (.jmp w) s = 3 ∧
    instrCost (.jmpr rs) s = 2 ∧ instrCost (.call w) s = 6 ∧ instrCost (.callr rs) s = 5 ∧
    instrCost .memcpy s = 5 + (s.reg 2).toNat ∧ instrCost .memset s = 5 + (s.reg 2).toNat ∧
    instrCost (.unknown op) s = 1 ∧
    ∀ p ∈ [(Instr.jz w, s.flags.z), (.jnz w, !s.flags.z), (.jc w, s.flags.c), (.jnc w, !s.flags.c), (.jn w, s.flags.n),
        (.jnn w, !s.flags.n), (.jo w, s.flags.v), (.jno w, !s.flags.v), (.ja w, !s.flags.c && !s.flags.z),
        (.jbe w, s.flags.c || s.flags.z), (.jg w, !s.flags.z && s.flags.n == s.flags.v), (.jge w, s.flags.n == s.flags.v),
        (.jl w, s.flags.n != s.flags.v), (.jle w, s.flags.z || s.flags.n != s.flags.v)],
      instrCost p.1 s = if p.2 then 4 else 2

/-! Invariants and whole-machine rules -/

/-- The state after reset, and after `init()` from any state, satisfies the invariant. -/
def Obligations.ResetSatisfiesTheInvariant : Prop := State.reset.Inv ∧ ∀ s : State, s.init.Inv

/-- Every step keeps the invariant: the memory stays canonical, the console stays sound (in range, only printable bytes, R157),
`waiting_for_input` stays false (R288) and `key_state` 0 or 1 (R32). -/
def Obligations.StepKeepsTheInvariant : Prop :=
  ∀ s t : State, s.Inv → step s = .next t → t.Inv

/-- Every host command keeps the invariant. -/
def Obligations.HostCommandsKeepTheInvariant : Prop :=
  ∀ (s : State) (bytes : List Byte) (delta : Nat) (code : Byte) (pressed : Bool), s.Inv →
    s.resetCpu.Inv ∧ (s.loadProgram bytes).Inv ∧ s.consumeDisplay.Inv ∧ (s.setKey code pressed).Inv ∧
      (s.tickTimers delta).Inv ∧ s.consumeConsoleUpdate.2.Inv ∧ s.clearConsole.Inv

/-- R290: where every instruction costs at least one cycle, the host's `step` returns; it stopped for one of its reasons; the cycles it returns are
those it added to the counter; and it kept the invariant. (With a zero cost the loop of R290 may never end: `HostStepFollowsTheLoop`.) -/
def Obligations.HostStepReturns : Prop :=
  ∀ (s : State) (maxCycles : Nat), Claims.PositiveCosts s →
    ∃ (t : State) (run : Nat), s.hostStep maxCycles = some (t, run) ∧
      (maxCycles ≤ run ∨ t.halted = true ∨ t.waitingForInput = true ∨ t.displayRequested = true) ∧
      t.cycles = s.cycles + BitVec.ofNat 64 run ∧ (s.Inv → t.Inv)

/-- R290, the stops: a call while halted or without budget runs nothing and returns 0; a call that leaves `display_requested` set after its
first instruction, under `STEP_PENDING_DISPLAY = one` or after a DISPLAY, returns after that instruction with its cost, whatever the budget. -/
def Obligations.HostStepStops : Prop :=
  (∀ (s : State) (maxCycles : Nat), s.halted = true → s.hostStep maxCycles = some (s, 0)) ∧
  (∀ s : State, s.hostStep 0 = some (s, 0)) ∧
  ∀ (s t : State) (maxCycles : Nat), s.halted = false → s.waitingForInput = false → 0 < maxCycles →
    step s = .next t → t.displayRequested = true →
    (s.params.stepPendingDisplay = .one ∨ s.read8 s.pc = 0x02) → s.hostStep maxCycles = some (t, s.stepCost)

/-- R29, R132, R288, R306: HALT alone sets `halted`, DISPLAY alone sets `display_requested`, no instruction clears either or
sets `waiting_for_input`. -/
def Obligations.RunControlOnlyByHaltAndDisplay : Prop :=
  ∀ (i : Instr) (s t : State), exec i s = .next t →
    t.halted = (s.halted || i == .halt) ∧ t.displayRequested = (s.displayRequested || i == .display) ∧
      t.waitingForInput = s.waitingForInput

/-- R59, R65, R291: no instruction changes the system timer or the key registers. (The countdown, the fourth device register of R32, is not among
them: a program may write it.) Nor does one change a parameter: R7 and R34 say that the parameters are no state of the block; that they stand in
a field of State, which nothing writes, is the model's choice, marked DESIGN CHOICE in notes/assumptions/1.md. -/
def Obligations.SystemTimerKeysAndParametersKept : Prop :=
  ∀ (i : Instr) (s t : State), exec i s = .next t →
    t.sysTimer = s.sysTimer ∧ t.keyCode = s.keyCode ∧ t.keyState = s.keyState ∧ t.params = s.params

/-- R24: `sp` moves only in PUSH, PUSHF, CALL, CALLR (down by 2) and POP, POPF, RET (up by 2). -/
def Obligations.StackPointerOnlyByStackInstructions : Prop :=
  ∀ (i : Instr) (s t : State), exec i s = .next t →
    t.sp = match i with
      | .push _ => s.sp - 2
      | .pushf => s.sp - 2
      | .call _ => s.sp - 2
      | .callr _ => s.sp - 2
      | .pop _ => s.sp + 2
      | .popf => s.sp + 2
      | .ret => s.sp + 2
      | _ => s.sp

/-- R171 with R27: an instruction whose rule lists no flag keeps all four; MUL, DIV, the bitwise forms and TEST keep C and V; the shifts keep V. -/
def Obligations.FlagsKeptByRule : Prop :=
  ∀ (i : Instr) (s t : State), exec i s = .next t →
    match i with
    | .add _ _ | .addi _ _ | .inc _ | .sub _ _ | .subi _ _ | .dec _ | .neg _ | .cmp _ _ | .cmpi _ _ | .popf => True
    | .mul _ _ | .div _ _ | .and _ _ | .andi _ _ | .or _ _ | .ori _ _ | .xor _ _ | .xori _ _ | .not _ _
    | .test _ _ | .testi _ _ => t.flags.c = s.flags.c ∧ t.flags.v = s.flags.v
    | .shl _ _ | .shr _ _ | .sar _ _ | .shli _ _ | .shri _ _ | .sari _ _ => t.flags.v = s.flags.v
    | _ => t.flags = s.flags

/-- R22: a register changes only in an instruction that names it as its destination, but for R0 in DIV and R0, R1, R2 in the block operations. -/
def Obligations.RegistersWrittenOnlyWhereNamed : Prop :=
  ∀ (i : Instr) (s t : State) (r : Reg), exec i s = .next t → t.reg r ≠ s.reg r →
    match i with
    | .mov rd _ | .movi rd _ | .load rd _ | .loadb rd _ | .pop rd => r = rd
    | .add rd _ | .addi rd _ | .sub rd _ | .subi rd _ | .mul rd _ | .inc rd | .dec rd | .neg rd => r = rd
    | .and rd _ | .andi rd _ | .or rd _ | .ori rd _ | .xor rd _ | .xori rd _ | .not rd _ => r = rd
    | .shl rd _ | .shr rd _ | .sar rd _ | .shli rd _ | .shri rd _ | .sari rd _ => r = rd
    | .div rd _ => r = rd ∨ r = 0
    | .memcpy => r = 0 ∨ r = 1 ∨ r = 2
    | .memset => r = 0 ∨ r = 2
    | _ => False

/-! System instructions and the console -/

/-- R130 to R133: NOP, HALT, DISPLAY and the unknown opcodes complete in every state, each with its one effect. -/
def Obligations.SystemInstructionsRun : Prop :=
  ∀ (s : State) (op : Byte),
    Runs s .nop [0x00] s.params.cycleCost.nop {} (fun _ => True) ∧
    Runs s .halt [0x01] s.params.cycleCost.halt { halted := true } (fun t => t.halted = true) ∧
    Runs s .display [0x02] s.params.cycleCost.display { display := true } (fun t => t.displayRequested = true) ∧
    (isUnknownOpcode op = true → Runs s (.unknown op) [op] s.params.cycleCost.unknown {} (fun _ => True))

/-- R145 with R141 to R144, whole: a byte that is not printable changes nothing; a printable one is stored at the write position, which
advances modulo 4,096, the length counts it up to 4,096, and the sticky flag is set. -/
def Obligations.FilteredWriter : Prop :=
  ∀ (c : Console) (b : Byte), c.Wf →
    (¬ ((0x20 ≤ b.toNat ∧ b.toNat ≤ 0x7E) ∨ b = 0x0A) → c.emit b = c) ∧
    ((0x20 ≤ b.toNat ∧ b.toNat ≤ 0x7E) ∨ b = 0x0A →
      (c.emit b).cbuf.read c.cpos = b ∧ (∀ k, k ≠ c.cpos → (c.emit b).cbuf.read k = c.cbuf.read k) ∧
      (c.emit b).cpos = (c.cpos + 1) % 4096 ∧ (c.emit b).clen = min (c.clen + 1) 4096 ∧ (c.emit b).cupd = true)

/-- R146 to R149: the console instructions complete in every state and change the console alone. PUTS writes the `n` bytes before the first NUL, at
most 256, and costs `n` more than its entry (R319). -/
def Obligations.ConsoleInstructionsRun : Prop :=
  ∀ (s : State) (rs : Reg),
    Runs s (.putc rs) [0x06, regByte 0 rs] s.params.cycleCost.putc { console := true }
      (fun t => t.console = s.console.emit ((s.reg rs).extractLsb' 0 8)) ∧
    (∃ n : Nat, n ≤ 256 ∧ (∀ i, i < n → s.read8 (s.reg rs + BitVec.ofNat 16 i) ≠ 0) ∧
      (n < 256 → s.read8 (s.reg rs + BitVec.ofNat 16 n) = 0) ∧
      Runs s (.puts rs) [0x07, regByte 0 rs] (s.params.cycleCost.puts + n) { console := true }
        (fun t => t.console =
          ((List.range n).map fun i => s.read8 (s.reg rs + BitVec.ofNat 16 i)).foldl Console.emit s.console)) ∧
    Runs s (.puti rs) [0x08, regByte 0 rs] s.params.cycleCost.puti { console := true }
      (fun t => t.console = (decString (s.reg rs)).foldl Console.emit s.console) ∧
    Runs s (.putx rs) [0x09, regByte 0 rs] s.params.cycleCost.putx { console := true }
      (fun t => t.console = (hex4 (s.reg rs)).foldl Console.emit s.console)

/-- R150: `Dec(v)` is made of decimal digits whose number is `v`, with no leading zero but for "0" itself. That the byte of the digit `n` is
0x30 + `n` is ASCII, which the spec takes from general knowledge: PRESUMED, notes/assumptions/11.md. -/
def Obligations.DecimalConversion : Prop :=
  ∀ v : Word,
    (decString v).foldl (fun n d => 10 * n + (d.toNat - 0x30)) 0 = v.toNat ∧
    (∀ d ∈ decString v, 0x30 ≤ d.toNat ∧ d.toNat ≤ 0x39) ∧
    (v = 0 → decString v = [0x30]) ∧ (v ≠ 0 → (decString v).head? ≠ some 0x30) ∧
    1 ≤ (decString v).length ∧ (decString v).length ≤ 5

/-- R151: `Hex4(v)` is "0x" and the digits of the four nibbles, the most significant first, upper case. The bytes of these characters (0x30, 0x78, the
digits 0x30..0x39 and 0x41..0x46) are ASCII, which R151 marks as from general knowledge: PRESUMED, notes/assumptions/11.md. -/
def Obligations.HexadecimalConversion : Prop :=
  ∀ v : Word,
    hex4 v = [0x30, 0x78] ++ [3, 2, 1, 0].map fun k =>
      let n := (v.extractLsb' (4 * k) 4).toNat
      if n ≤ 9 then BitVec.ofNat 8 (0x30 + n) else BitVec.ofNat 8 (0x41 + n - 10)

/-- R152: the host's view of a console that was empty is the last 4,096 printable bytes written since, in order. -/
def Obligations.ConsoleViewIsTheLastBytes : Prop :=
  ∀ (s : State) (bs : List Byte),
    (s.clearConsole.emitAll bs).consoleView =
      (bs.filter printable).drop ((bs.filter printable).length - 4096)

/-! Data movement and the stack -/

/-- R161 to R164: MOV, MOVI, LOAD and LOADB complete in every state; only Rd changes, and no flag. -/
def Obligations.MovesAndLoadsRun : Prop :=
  ∀ (s : State) (rd rs : Reg) (imm : Word),
    Runs s (.mov rd rs) [0x10, regByte rd rs] s.params.cycleCost.mov { regs := [rd] } (fun t => t.reg rd = s.reg rs) ∧
    Runs s (.movi rd imm) [0x11, regByte rd 0, imm.extractLsb' 0 8, imm.extractLsb' 8 8] s.params.cycleCost.movi
      { regs := [rd] } (fun t => t.reg rd = imm) ∧
    Runs s (.load rd rs) [0x12, regByte rd rs] s.params.cycleCost.load { regs := [rd] }
      (fun t => t.reg rd = Claims.wordAt s (s.reg rs)) ∧
    Runs s (.loadb rd rs) [0x13, regByte rd rs] s.params.cycleCost.loadb { regs := [rd] }
      (fun t => (t.reg rd).toNat = (s.read8 (s.reg rs)).toNat)

/-- R165, R166: STORE and STOREB complete in every state with canonical memory; the bytes at the address in Rd change as R59 and R60 say, and
nothing else. -/
def Obligations.StoresRun : Prop :=
  ∀ (s : State) (rd rs : Reg), s.mem.wf = true →
    Runs s (.store rd rs) [0x14, regByte rd rs] s.params.cycleCost.store { bytes := (s.reg rd, 2) }
      (fun t => Claims.WordStored s t (s.reg rd) (s.reg rs)) ∧
    Runs s (.storeb rd rs) [0x15, regByte rd rs] s.params.cycleCost.storeb { bytes := (s.reg rd, 1) }
      (fun t => Claims.ByteStored s t (s.reg rd) ((s.reg rs).extractLsb' 0 8))

/-- R167, R169 with R172 and R26: PUSH and PUSHF complete in every state with canonical memory: `sp` falls by 2 and the word goes to the new `sp`. -/
def Obligations.PushesRun : Prop :=
  ∀ (s : State) (rs : Reg), s.mem.wf = true →
    Runs s (.push rs) [0x16, regByte 0 rs] s.params.cycleCost.push { sp := true, bytes := (s.sp - 2, 2) }
      (fun t => t.sp = s.sp - 2 ∧ Claims.WordStored s t (s.sp - 2) (s.reg rs)) ∧
    Runs s .pushf [0x04] s.params.cycleCost.pushf { sp := true, bytes := (s.sp - 2, 2) }
      (fun t => t.sp = s.sp - 2 ∧ Claims.WordStored s t (s.sp - 2) (BitVec.ofNat 16 (Claims.flagNumber s.flags)))

/-- R168, R170 with R173 and R26: POP and POPF complete in every state: the word at `sp` is read, then `sp` rises by 2. -/
def Obligations.PopsRun : Prop :=
  ∀ (s : State) (rd : Reg),
    Runs s (.pop rd) [0x17, regByte rd 0] s.params.cycleCost.pop { regs := [rd], sp := true }
      (fun t => t.reg rd = Claims.wordAt s s.sp ∧ t.sp = s.sp + 2) ∧
    Runs s .popf [0x05] s.params.cycleCost.popf { flags := true, sp := true }
      (fun t => t.sp = s.sp + 2 ∧ t.flags.z = (Claims.wordAt s s.sp).getLsbD 0 ∧ t.flags.c = (Claims.wordAt s s.sp).getLsbD 1 ∧
        t.flags.n = (Claims.wordAt s s.sp).getLsbD 2 ∧ t.flags.v = (Claims.wordAt s s.sp).getLsbD 3)

/-- R175: PUSH R then POP R restores R and `sp` where both stack bytes are store bytes, that is `sp` in 0x0002..0xFFF0; `sp` is
restored always; and where a byte lies in the overlay the register can be lost. -/
def Obligations.PushPopRoundTrip : Prop :=
  (∀ (s t u : State) (r : Reg), s.mem.wf = true → exec (.push r) s = .next t → exec (.pop r) t = .next u →
    u.sp = s.sp ∧ (2 ≤ s.sp.toNat → s.sp.toNat ≤ 0xFFF0 → u.reg r = s.reg r)) ∧
  ∃ (s t u : State) (r : Reg), s.mem.wf = true ∧ exec (.push r) s = .next t ∧ exec (.pop r) t = .next u ∧ u.reg r ≠ s.reg r

/-- R26, R169, R170: PUSHF then POPF restores the four flags, however they were changed in between, where the stack bytes are store bytes that nobody wrote
in between. -/
def Obligations.PushfPopfRestoresTheFlags : Prop :=
  ∀ (s t u v : State), s.mem.wf = true → 2 ≤ s.sp.toNat → s.sp.toNat ≤ 0xFFF0 → exec .pushf s = .next t →
    u.sp = t.sp → (∀ a, u.read8 a = t.read8 a) → exec .popf u = .next v → v.flags = s.flags ∧ v.sp = s.sp

/-! Arithmetic, logic and shifts -/

/-- R183, R184, R189 with R181: ADD, ADDI and INC complete in every state with the sum in Rd and its four flags. -/
def Obligations.AddFormsRun : Prop :=
  ∀ (s : State) (rd rs : Reg) (imm : Byte),
    Runs s (.add rd rs) [0x20, regByte rd rs] s.params.cycleCost.add { regs := [rd], flags := true }
      (fun t => t.reg rd = s.reg rd + s.reg rs ∧ Claims.SumFlags (s.reg rd) (s.reg rs) t.flags) ∧
    Runs s (.addi rd imm) [0x21, regByte rd 0, imm] s.params.cycleCost.addi { regs := [rd], flags := true }
      (fun t => t.reg rd = s.reg rd + Claims.immOf s imm ∧ Claims.SumFlags (s.reg rd) (Claims.immOf s imm) t.flags) ∧
    Runs s (.inc rd) [0x26, regByte rd 0] s.params.cycleCost.inc { regs := [rd], flags := true }
      (fun t => t.reg rd = s.reg rd + 1 ∧ Claims.SumFlags (s.reg rd) 1 t.flags)

/-- R185, R186, R190, R191 with R182: SUB, SUBI, DEC and NEG complete in every state with the difference in Rd and its four flags. -/
def Obligations.SubtractFormsRun : Prop :=
  ∀ (s : State) (rd rs : Reg) (imm : Byte),
    Runs s (.sub rd rs) [0x22, regByte rd rs] s.params.cycleCost.sub { regs := [rd], flags := true }
      (fun t => t.reg rd = s.reg rd - s.reg rs ∧ Claims.DifferenceFlags (s.reg rd) (s.reg rs) t.flags) ∧
    Runs s (.subi rd imm) [0x23, regByte rd 0, imm] s.params.cycleCost.subi { regs := [rd], flags := true }
      (fun t => t.reg rd = s.reg rd - Claims.immOf s imm ∧ Claims.DifferenceFlags (s.reg rd) (Claims.immOf s imm) t.flags) ∧
    Runs s (.dec rd) [0x27, regByte rd 0] s.params.cycleCost.dec { regs := [rd], flags := true }
      (fun t => t.reg rd = s.reg rd - 1 ∧ Claims.DifferenceFlags (s.reg rd) 1 t.flags) ∧
    Runs s (.neg rd) [0x28, regByte rd 0] s.params.cycleCost.neg { regs := [rd], flags := true }
      (fun t => t.reg rd = 0 - s.reg rd ∧ Claims.DifferenceFlags 0 (s.reg rd) t.flags)

/-- R192: C and V of R181 and R182 as facts about integers: C says that the unsigned sum or difference does not fit 16 bits, V that the signed
one does not. -/
def Obligations.CarryAndOverflowAsIntegers : Prop :=
  ∀ a b : Word,
    ((addFlags a b).c = true ↔ 65536 ≤ a.toNat + b.toNat) ∧
    ((addFlags a b).v = true ↔ a.toInt + b.toInt < -32768 ∨ 32767 < a.toInt + b.toInt) ∧
    ((subFlags a b).c = true ↔ a.toNat < b.toNat) ∧
    ((subFlags a b).v = true ↔ a.toInt - b.toInt < -32768 ∨ 32767 < a.toInt - b.toInt)

/-- R187: MUL completes in every state with the low 16 bits of the product; Z and N from them, C and V kept. -/
def Obligations.MultiplyRuns : Prop :=
  ∀ (s : State) (rd rs : Reg),
    Runs s (.mul rd rs) [0x24, regByte rd rs] s.params.cycleCost.mul { regs := [rd], flags := true }
      (fun t => (t.reg rd).toNat = (s.reg rd).toNat * (s.reg rs).toNat % 65536 ∧
        Claims.LogicFlags (t.reg rd) s.flags t.flags)

/-- R188: DIV completes in every state, a zero divisor included: the quotient in Rd, the remainder in R0 (which it keeps when Rd is R0), Z and N
from the quotient, C and V kept. -/
def Obligations.DivideRuns : Prop :=
  ∀ (s : State) (rd rs : Reg), ∃ q r : Word,
    (s.reg rs = 0 → q = 0xFFFF ∧ r = s.reg rd) ∧
    (s.reg rs ≠ 0 → q.toNat * (s.reg rs).toNat + r.toNat = (s.reg rd).toNat ∧ r.toNat < (s.reg rs).toNat) ∧
    Runs s (.div rd rs) [0x25, regByte rd rs] s.params.cycleCost.div { regs := [rd, 0], flags := true }
      (fun t => t.reg 0 = r ∧ (rd ≠ 0 → t.reg rd = q) ∧ Claims.LogicFlags q s.flags t.flags)

/-- R202 to R208 with R201: the bitwise instructions complete in every state; Z and N from the result, C and V kept. -/
def Obligations.BitwiseFormsRun : Prop :=
  ∀ (s : State) (rd rs : Reg) (imm : Byte),
    Runs s (.and rd rs) [0x30, regByte rd rs] s.params.cycleCost.and { regs := [rd], flags := true }
      (fun t => t.reg rd = s.reg rd &&& s.reg rs ∧ Claims.LogicFlags (t.reg rd) s.flags t.flags) ∧
    Runs s (.andi rd imm) [0x31, regByte rd 0, imm] s.params.cycleCost.andi { regs := [rd], flags := true }
      (fun t => t.reg rd = s.reg rd &&& Claims.immOf s imm ∧ Claims.LogicFlags (t.reg rd) s.flags t.flags) ∧
    Runs s (.or rd rs) [0x32, regByte rd rs] s.params.cycleCost.or { regs := [rd], flags := true }
      (fun t => t.reg rd = s.reg rd ||| s.reg rs ∧ Claims.LogicFlags (t.reg rd) s.flags t.flags) ∧
    Runs s (.ori rd imm) [0x33, regByte rd 0, imm] s.params.cycleCost.ori { regs := [rd], flags := true }
      (fun t => t.reg rd = s.reg rd ||| Claims.immOf s imm ∧ Claims.LogicFlags (t.reg rd) s.flags t.flags) ∧
    Runs s (.xor rd rs) [0x34, regByte rd rs] s.params.cycleCost.xor { regs := [rd], flags := true }
      (fun t => t.reg rd = s.reg rd ^^^ s.reg rs ∧ Claims.LogicFlags (t.reg rd) s.flags t.flags) ∧
    Runs s (.xori rd imm) [0x35, regByte rd 0, imm] s.params.cycleCost.xori { regs := [rd], flags := true }
      (fun t => t.reg rd = s.reg rd ^^^ Claims.immOf s imm ∧ Claims.LogicFlags (t.reg rd) s.flags t.flags) ∧
    Runs s (.not rd rs) [0x36, regByte rd rs] s.params.cycleCost.not { regs := [rd], flags := true }
      (fun t => (∀ k, k < 16 → (t.reg rd).getLsbD k = !(s.reg (if s.params.notSrc = .rd then rd else rs)).getLsbD k) ∧
        Claims.LogicFlags (t.reg rd) s.flags t.flags)

/-- R210 to R215 with R209: the shifts complete in every state; a register count is taken modulo 16, an immediate distance is the 3-bit field. -/
def Obligations.ShiftFormsRun : Prop :=
  ∀ (s : State) (rd rs : Reg) (dist : BitVec 3),
    Runs s (.shl rd rs) [0x37, regByte rd rs] s.params.cycleCost.shl { regs := [rd], flags := true }
      (fun t => Claims.Shifted .shl (s.reg rd) ((s.reg rs).toNat % 16) s.flags (t.reg rd) t.flags) ∧
    Runs s (.shr rd rs) [0x38, regByte rd rs] s.params.cycleCost.shr { regs := [rd], flags := true }
      (fun t => Claims.Shifted .shr (s.reg rd) ((s.reg rs).toNat % 16) s.flags (t.reg rd) t.flags) ∧
    Runs s (.sar rd rs) [0x39, regByte rd rs] s.params.cycleCost.sar { regs := [rd], flags := true }
      (fun t => Claims.Shifted .sar (s.reg rd) ((s.reg rs).toNat % 16) s.flags (t.reg rd) t.flags) ∧
    Runs s (.shli rd dist) [0x3A, regByte rd dist] s.params.cycleCost.shli { regs := [rd], flags := true }
      (fun t => Claims.Shifted .shl (s.reg rd) dist.toNat s.flags (t.reg rd) t.flags) ∧
    Runs s (.shri rd dist) [0x3B, regByte rd dist] s.params.cycleCost.shri { regs := [rd], flags := true }
      (fun t => Claims.Shifted .shr (s.reg rd) dist.toNat s.flags (t.reg rd) t.flags) ∧
    Runs s (.sari rd dist) [0x3C, regByte rd dist] s.params.cycleCost.sari { regs := [rd], flags := true }
      (fun t => Claims.Shifted .sar (s.reg rd) dist.toNat s.flags (t.reg rd) t.flags)

/-- R226 to R229: the compare and test instructions complete in every state and write only flags. -/
def Obligations.CompareFormsRun : Prop :=
  ∀ (s : State) (rd rs : Reg) (imm : Byte),
    Runs s (.cmp rd rs) [0x40, regByte rd rs] s.params.cycleCost.cmp { flags := true }
      (fun t => Claims.DifferenceFlags (s.reg rd) (s.reg rs) t.flags) ∧
    Runs s (.cmpi rd imm) [0x41, regByte rd 0, imm] s.params.cycleCost.cmpi { flags := true }
      (fun t => Claims.DifferenceFlags (s.reg rd) (Claims.immOf s imm) t.flags) ∧
    Runs s (.test rd rs) [0x42, regByte rd rs] s.params.cycleCost.test { flags := true }
      (fun t => Claims.LogicFlags (s.reg rd &&& s.reg rs) s.flags t.flags) ∧
    Runs s (.testi rd imm) [0x43, regByte rd 0, imm] s.params.cycleCost.testi { flags := true }
      (fun t => Claims.LogicFlags (s.reg rd &&& Claims.immOf s imm) s.flags t.flags)

/-- R230: CMP and CMPI set the flags SUB and SUBI would set, TEST and TESTI those of AND and ANDI, and none writes a register or memory. -/
def Obligations.FlagPurity : Prop :=
  ∀ (s : State) (rd rs : Reg) (imm : Byte) (p : Instr × Instr) (t u : State),
    p ∈ [(Instr.cmp rd rs, Instr.sub rd rs), (.cmpi rd imm, .subi rd imm), (.test rd rs, .and rd rs), (.testi rd imm, .andi rd imm)] →
    exec p.1 s = .next t → exec p.2 s = .next u →
    t.flags = u.flags ∧ (∀ r, t.reg r = s.reg r) ∧ ∀ a, t.read8 a = s.read8 a

/-! Control transfer -/

/-- R237, R238: JMP and JMPR complete in every state and change `pc` alone. -/
def Obligations.JumpsRun : Prop :=
  ∀ (s : State) (rs : Reg) (addr : Word),
    Runs s (.jmp addr) [0x50, addr.extractLsb' 0 8, addr.extractLsb' 8 8] s.params.cycleCost.jmp { pc := true }
      (fun t => t.pc = addr) ∧
    Runs s (.jmpr rs) [0x51, regByte 0 rs] s.params.cycleCost.jmpr { pc := true } (fun t => t.pc = s.reg rs)

/-- R239 to R253 with R236: the fourteen conditional jumps complete in every state, each taken exactly when its condition holds, each at the cost of
its own entry. -/
def Obligations.ConditionalJumpsRun : Prop :=
  ∀ (s : State) (addr : Word),
    Claims.JumpsWhen s addr (.jz addr) 0x52 s.params.cycleCost.jz s.flags.z ∧
    Claims.JumpsWhen s addr (.jnz addr) 0x53 s.params.cycleCost.jnz (!s.flags.z) ∧
    Claims.JumpsWhen s addr (.jc addr) 0x54 s.params.cycleCost.jc s.flags.c ∧
    Claims.JumpsWhen s addr (.jnc addr) 0x55 s.params.cycleCost.jnc (!s.flags.c) ∧
    Claims.JumpsWhen s addr (.jn addr) 0x56 s.params.cycleCost.jn s.flags.n ∧
    Claims.JumpsWhen s addr (.jnn addr) 0x57 s.params.cycleCost.jnn (!s.flags.n) ∧
    Claims.JumpsWhen s addr (.jo addr) 0x58 s.params.cycleCost.jo s.flags.v ∧
    Claims.JumpsWhen s addr (.jno addr) 0x59 s.params.cycleCost.jno (!s.flags.v) ∧
    Claims.JumpsWhen s addr (.ja addr) 0x5A s.params.cycleCost.ja (!s.flags.c && !s.flags.z) ∧
    Claims.JumpsWhen s addr (.jbe addr) 0x5B s.params.cycleCost.jbe (s.flags.c || s.flags.z) ∧
    Claims.JumpsWhen s addr (.jg addr) 0x5C s.params.cycleCost.jg (!s.flags.z && decide (s.flags.n = s.flags.v)) ∧
    Claims.JumpsWhen s addr (.jge addr) 0x5D s.params.cycleCost.jge (decide (s.flags.n = s.flags.v)) ∧
    Claims.JumpsWhen s addr (.jl addr) 0x5E s.params.cycleCost.jl (decide (s.flags.n ≠ s.flags.v)) ∧
    Claims.JumpsWhen s addr (.jle addr) 0x5F s.params.cycleCost.jle (s.flags.z || decide (s.flags.n ≠ s.flags.v))

/-- R236, the last column: after CMP a, b the conditions read as comparisons of a and b, unsigned and signed. -/
def Obligations.ConditionsAfterCompare : Prop :=
  ∀ (s t : State) (rd rs : Reg), exec (.cmp rd rs) s = .next t →
    (condHolds .z t.flags = true ↔ s.reg rd = s.reg rs) ∧ (condHolds .nz t.flags = true ↔ s.reg rd ≠ s.reg rs) ∧
    (condHolds .c t.flags = true ↔ (s.reg rd).toNat < (s.reg rs).toNat) ∧
    (condHolds .nc t.flags = true ↔ (s.reg rs).toNat ≤ (s.reg rd).toNat) ∧
    (condHolds .n t.flags = true ↔ (s.reg rd - s.reg rs).toInt < 0) ∧
    (condHolds .nn t.flags = true ↔ 0 ≤ (s.reg rd - s.reg rs).toInt) ∧
    (condHolds .o t.flags = true ↔
      (s.reg rd).toInt - (s.reg rs).toInt < -32768 ∨ 32767 < (s.reg rd).toInt - (s.reg rs).toInt) ∧
    (condHolds .no t.flags = true ↔
      -32768 ≤ (s.reg rd).toInt - (s.reg rs).toInt ∧ (s.reg rd).toInt - (s.reg rs).toInt ≤ 32767) ∧
    (condHolds .a t.flags = true ↔ (s.reg rs).toNat < (s.reg rd).toNat) ∧
    (condHolds .be t.flags = true ↔ (s.reg rd).toNat ≤ (s.reg rs).toNat) ∧
    (condHolds .g t.flags = true ↔ (s.reg rs).toInt < (s.reg rd).toInt) ∧
    (condHolds .ge t.flags = true ↔ (s.reg rs).toInt ≤ (s.reg rd).toInt) ∧
    (condHolds .l t.flags = true ↔ (s.reg rd).toInt < (s.reg rs).toInt) ∧
    (condHolds .le t.flags = true ↔ (s.reg rd).toInt ≤ (s.reg rs).toInt)

/-- R254, R255, R256 with R172 and R173: CALL and CALLR complete in every state with canonical memory and push `pc`, which holds the address of the next
instruction; RET completes in every state and takes `pc` from the stack. -/
def Obligations.CallsAndReturnRun : Prop :=
  ∀ (s : State) (rs : Reg) (addr : Word),
    (s.mem.wf = true →
      Runs s (.call addr) [0x60, addr.extractLsb' 0 8, addr.extractLsb' 8 8] s.params.cycleCost.call
        { pc := true, sp := true, bytes := (s.sp - 2, 2) }
        (fun t => t.pc = addr ∧ t.sp = s.sp - 2 ∧ Claims.WordStored s t (s.sp - 2) s.pc) ∧
      Runs s (.callr rs) [0x61, regByte 0 rs] s.params.cycleCost.callr { pc := true, sp := true, bytes := (s.sp - 2, 2) }
        (fun t => t.pc = s.reg rs ∧ t.sp = s.sp - 2 ∧ Claims.WordStored s t (s.sp - 2) s.pc)) ∧
    Runs s .ret [0x03] s.params.cycleCost.ret { pc := true, sp := true }
      (fun t => t.pc = Claims.wordAt s s.sp ∧ t.sp = s.sp + 2)

/-- R254 to R256, R258: a RET that finds `sp` and the two stack bytes as the CALL left them goes back to the instruction after the CALL and restores `sp`,
where the stack bytes are store bytes. -/
def Obligations.CallThenReturn : Prop :=
  ∀ (s t u v : State) (addr : Word), s.mem.wf = true → 2 ≤ s.sp.toNat → s.sp.toNat ≤ 0xFFF0 →
    exec (.call addr) s = .next t → u.sp = t.sp → u.read8 t.sp = t.read8 t.sp → u.read8 (t.sp + 1) = t.read8 (t.sp + 1) →
    exec .ret u = .next v → v.pc = s.pc ∧ v.sp = s.sp

/-! Block operations -/

/-- R261: MEMCPY completes in every state with canonical memory. R0 and R1 advance by the count, R2 becomes 0, the cost is the count more than the
entry (R263). Under `ascending` memory is as the ascending loop leaves it; under `unspecified` a byte of both ranges may be anything and the other bytes
are as the loop leaves them ("all other effects being as above", read as notes/assumptions/5.md says). -/
def Obligations.MemcpyRuns : Prop :=
  ∀ s : State, s.mem.wf = true → ∃ u : Nat → State,
    Claims.CopyCourse s (s.reg 0) (s.reg 1) (s.reg 2).toNat u ∧
    Runs s .memcpy [0x70] (s.params.cycleCost.memcpy + (s.reg 2).toNat)
      { regs := [0, 1, 2], bytes := (s.reg 1, (s.reg 2).toNat) }
      (fun t => t.reg 0 = s.reg 0 + s.reg 2 ∧ t.reg 1 = s.reg 1 + s.reg 2 ∧ t.reg 2 = 0 ∧
        ∀ b : Word, s.params.memcpyOverlap = .ascending ∨ (s.reg 2).toNat ≤ (b - s.reg 0).toNat ∨
            (s.reg 2).toNat ≤ (b - s.reg 1).toNat →
          t.read8 b = (u (s.reg 2).toNat).read8 b)

/-- R261: where the ranges share no address and the destination lies in the store, every destination byte is the source byte of before,
under both values of `MEMCPY_OVERLAP`. -/
def Obligations.MemcpyCopiesDisjointRanges : Prop :=
  ∀ s t : State, s.mem.wf = true → (s.reg 1).toNat + (s.reg 2).toNat ≤ 0xFFF0 →
    (∀ i j, i < (s.reg 2).toNat → j < (s.reg 2).toNat →
      s.reg 0 + BitVec.ofNat 16 i ≠ s.reg 1 + BitVec.ofNat 16 j) →
    exec .memcpy s = .next t →
    ∀ i, i < (s.reg 2).toNat → t.read8 (s.reg 1 + BitVec.ofNat 16 i) = s.read8 (s.reg 0 + BitVec.ofNat 16 i)

/-- R262: MEMSET completes in every state with canonical memory. Every byte of the range takes the low byte of R1 where it can be written, R0 advances, R1
stays, R2 becomes 0. -/
def Obligations.MemsetRuns : Prop :=
  ∀ s : State, s.mem.wf = true →
    Runs s .memset [0x71] (s.params.cycleCost.memset + (s.reg 2).toNat)
      { regs := [0, 2], bytes := (s.reg 0, (s.reg 2).toNat) }
      (fun t => t.reg 0 = s.reg 0 + s.reg 2 ∧ t.reg 2 = 0 ∧
        ∀ i, i < (s.reg 2).toNat → Claims.ByteStored s t (s.reg 0 + BitVec.ofNat 16 i) ((s.reg 1).extractLsb' 0 8))

/-! Memory -/

/-- R57, whole: what each address reads as. -/
def Obligations.ByteReads : Prop :=
  ∀ (s : State) (a : Word),
    (a = 0xFFF0 → s.read8 a = s.sysTimer.extractLsb' 0 8) ∧ (a = 0xFFF1 → s.read8 a = s.sysTimer.extractLsb' 8 8) ∧
    (a = 0xFFF2 → s.read8 a = s.countdown.extractLsb' 0 8) ∧ (a = 0xFFF3 → s.read8 a = s.countdown.extractLsb' 8 8) ∧
    (a = 0xFFF4 → s.read8 a = s.keyCode) ∧ (a = 0xFFF5 → s.read8 a = s.keyState) ∧
    (0xFFF6 ≤ a.toNat → s.read8 a = 0) ∧ (a.toNat < 0xFFF0 → s.read8 a = s.mem.read a.toNat)

/-- R59 and R77: a byte write stores into the store or one byte of the countdown, is discarded elsewhere, leaves every other byte and the rest
of the state alone, and reads back where it is not read-only or reserved. -/
def Obligations.ByteWrites : Prop :=
  ∀ (s : State) (a : Word) (v : Byte), s.mem.wf = true →
    Claims.ByteStored s (s.write8 a v) a v ∧ (∀ b, b ≠ a → (s.write8 a v).read8 b = s.read8 b) ∧
    (a = 0xFFF2 → (s.write8 a v).countdown.toNat = s.countdown.toNat / 256 * 256 + v.toNat) ∧
    (a = 0xFFF3 → (s.write8 a v).countdown.toNat = v.toNat * 256 + s.countdown.toNat % 256) ∧
    (¬ Claims.Writable a → s.write8 a v = s) ∧ { s.write8 a v with mem := s.mem, countdown := s.countdown } = s ∧
    (s.write8 a v).mem.wf = true

/-- R58, R60, R62: a word is little-endian at every address, straddling ones and 0xFFFF included, and a word written where both bytes can be written
reads back, low byte at the lower address. -/
def Obligations.WordAccesses : Prop :=
  ∀ (s : State) (a v : Word), s.mem.wf = true →
    (s.read16 a).toNat = (s.read8 a).toNat + 256 * (s.read8 (a + 1)).toNat ∧
    Claims.WordStored s (s.write16 a v) a v ∧ (∀ b, b ≠ a → b ≠ a + 1 → (s.write16 a v).read8 b = s.read8 b) ∧
    { s.write16 a v with mem := s.mem, countdown := s.countdown } = s ∧
    (Claims.Writable a → Claims.Writable (a + 1) → (s.write16 a v).read16 a = v)

/-- R54: the framebuffer address of a pixel lies in 0x4000..0x7FFF and gives its column and row back; and every framebuffer address is that of its pixel. -/
def Obligations.FramebufferAddresses : Prop :=
  (∀ x y : Fin 128, (pixelAddr x y).toNat = 0x4000 + y.val * 128 + x.val ∧
    (pixelX (pixelAddr x y)).toNat = x.val ∧ (pixelY (pixelAddr x y)).toNat = y.val) ∧
  ∀ a : Word, 0x4000 ≤ a.toNat → a.toNat < 0x8000 → pixelAddr (pixelX a).toFin (pixelY a).toFin = a

/-! Host commands and reset -/

/-- R301 with R37: what `init()` leaves, from any state; and a step after it runs the NOP that the empty store holds. `State.reset` is
such a state: `init()` does not change it. -/
def Obligations.InitState : Prop :=
  ∀ s : State,
    (∀ r, s.init.reg r = 0) ∧ s.init.pc = 0x0000 ∧ s.init.sp = 0xFFEF ∧
    s.init.flags = { z := false, c := false, n := false, v := false } ∧ s.init.halted = false ∧
    s.init.displayRequested = false ∧ s.init.waitingForInput = false ∧ s.init.cycles = 0 ∧
    (∀ a, s.init.read8 a = 0) ∧ s.init.sysTimer = 0 ∧ s.init.countdown = 0 ∧ s.init.keyCode = 0 ∧ s.init.keyState = 0 ∧
    (∀ k, s.init.console.cbuf.read k = 0) ∧ s.init.console.cpos = 0 ∧ s.init.console.clen = 0 ∧ s.init.console.cupd = false ∧
    step s.init = exec .nop { s.init with pc := 1 } ∧ State.reset.init = State.reset

/-- R302: what `reset_cpu()` resets and what it keeps; the console follows `RESET_CPU_CONSOLE` (R37). -/
def Obligations.ResetCpuState : Prop :=
  ∀ s : State,
    (∀ r, s.resetCpu.reg r = 0) ∧ s.resetCpu.pc = 0x0000 ∧ s.resetCpu.sp = 0xFFEF ∧
    s.resetCpu.flags = { z := false, c := false, n := false, v := false } ∧ s.resetCpu.halted = false ∧
    s.resetCpu.displayRequested = false ∧ s.resetCpu.waitingForInput = false ∧ s.resetCpu.cycles = 0 ∧
    (∀ a, s.resetCpu.read8 a = s.read8 a) ∧ s.resetCpu.mem = s.mem ∧ s.resetCpu.sysTimer = s.sysTimer ∧
    s.resetCpu.countdown = s.countdown ∧ s.resetCpu.keyCode = s.keyCode ∧ s.resetCpu.keyState = s.keyState ∧
    (s.params.resetCpuConsole = .kept → s.resetCpu.console = s.console) ∧
    (s.params.resetCpuConsole = .cleared → s.resetCpu.console = s.init.console)

/-- R303: `load_program` puts byte `i` at address `i` for the first 16,384 bytes, drops the rest, leaves every other byte and every other field alone. -/
def Obligations.LoadProgramCopies : Prop :=
  ∀ (s : State) (bytes : List Byte), s.mem.wf = true →
    (∀ i, i < bytes.length → i < 16384 → (s.loadProgram bytes).read8 (BitVec.ofNat 16 i) = bytes.getD i 0) ∧
    (∀ a : Word, bytes.length ≤ a.toNat ∨ 16384 ≤ a.toNat → (s.loadProgram bytes).read8 a = s.read8 a) ∧
    { s.loadProgram bytes with mem := s.mem } = s

/-- R280, R281, R292: the timers, the keys and `consume_display()`. The system timer adds modulo 2^16, the countdown stops at zero; a release keeps the
last key; each changes nothing else. -/
def Obligations.DeviceCommands : Prop :=
  ∀ (s : State) (delta : Nat) (code : Byte),
    (s.tickTimers delta).sysTimer.toNat = (s.sysTimer.toNat + delta) % 65536 ∧
    (s.tickTimers delta).countdown.toNat = s.countdown.toNat - delta ∧
    { s.tickTimers delta with sysTimer := s.sysTimer, countdown := s.countdown } = s ∧
    s.setKey code true = { s with keyCode := code, keyState := 1 } ∧
    s.setKey code false = { s with keyState := 0 } ∧
    s.consumeDisplay = { s with displayRequested := false }

/-- R153 to R156: the console queries and `clear_console()`, which keeps the sticky flag. -/
def Obligations.ConsoleCommands : Prop :=
  ∀ s : State, s.Inv →
    s.consoleBytes.length = 4096 ∧ (∀ k, k < 4096 → s.consoleBytes[k]? = some (s.console.cbuf.read k)) ∧
    s.consoleLength.toNat = s.console.clen ∧ s.consoleWritePos.toNat = s.console.cpos ∧
    s.consumeConsoleUpdate.1 = s.console.cupd ∧ s.consumeConsoleUpdate.2 = { s with console := { s.console with cupd := false } } ∧
    s.clearConsole.consoleLength = 0 ∧ s.clearConsole.consoleWritePos = 0 ∧ (∀ k, s.clearConsole.console.cbuf.read k = 0) ∧
    s.clearConsole.console.cupd = s.console.cupd

/-! The host's loop, whole -/

/-- R290 under every cost table, zero entries too: the host's `step` returns `t` and `r` exactly where the loop of R290 comes after some turns to the
state `t` with `r` cycles used and stops there, for the budget, the run control or the display request; and it has no result exactly where the
loop goes on for ever. (That a loop without end is `none` is the model's way to say it: notes/assumptions/13.md.) -/
def Obligations.HostStepFollowsTheLoop : Prop :=
  (∀ (s t : State) (maxCycles r : Nat), s.hostStep maxCycles = some (t, r) ↔
    ∃ (n : Nat) (u : Nat → State) (run : Nat → Nat), Claims.LoopCourse maxCycles s n u run ∧ u n = t ∧ run n = r ∧
      (maxCycles ≤ r ∨ t.halted = true ∨ t.waitingForInput = true ∨ ∃ m, n = m + 1 ∧ Claims.DisplayStops (u m) t)) ∧
  ∀ (s : State) (maxCycles : Nat), s.hostStep maxCycles = none ↔
    ∃ (u : Nat → State) (run : Nat → Nat), ∀ n, Claims.LoopCourse maxCycles s n u run
end

