-- ==== Sys2Proof/Laws/Memory.lean ====
section
/-! SUPPORT. The sparse store: reading after writing, and every operation keeps the canonical form. -/

namespace Sys2Proof.Machine

/-- A write leaves every other index alone. -/
theorem Memory.read_write_other (m : Memory) (k j : Nat) (v : Byte) (h : j ≠ k) :
    (m.write k v).read j = m.read j := by
  induction m with
  | nil =>
    unfold Memory.write
    split <;> simp [Memory.read, Ne.symm h]
  | cons c rest ih =>
    obtain ⟨a, b⟩ := c
    have hk : ¬ k = j := fun e => h e.symm
    unfold Memory.write
    split_ifs <;> simp_all [Memory.read]

/-- Below the first listed index every byte is 0x00. -/
theorem Memory.read_below (m : Memory) (lo hi k : Nat) (hm : m.canonical lo hi = true) (hk : k < lo) : m.read k = 0 := by
  induction m generalizing lo with
  | nil => rfl
  | cons c rest ih =>
    obtain ⟨a, b⟩ := c
    simp only [Memory.canonical, Bool.and_eq_true, decide_eq_true_eq] at hm
    obtain ⟨⟨⟨h1, h2⟩, h3⟩, h4⟩ := hm
    simp only [Memory.read]
    rw [if_neg (by omega)]
    exact ih (a + 1) h4 (by omega)

/-- In a canonical list a read gives what was last written. -/
theorem Memory.read_write_same (m : Memory) (lo hi k : Nat) (v : Byte) (hm : m.canonical lo hi = true) :
    (m.write k v).read k = v := by
  induction m generalizing lo with
  | nil =>
    unfold Memory.write
    split <;> simp_all [Memory.read]
  | cons c rest ih =>
    obtain ⟨a, b⟩ := c
    simp only [Memory.canonical, Bool.and_eq_true, decide_eq_true_eq] at hm
    obtain ⟨⟨⟨h1, h2⟩, h3⟩, h4⟩ := hm
    unfold Memory.write
    split
    · split
      · next hv => simp [Memory.read, Nat.ne_of_gt ‹k < a›, hv, Memory.read_below rest _ _ k h4 (by omega)]
      · simp [Memory.read]
    · split
      · split
        · next hv => rw [hv]; exact Memory.read_below rest _ _ k h4 (by omega)
        · simp [Memory.read]
      · simp only [Memory.read]
        rw [if_neg (by omega)]
        exact ih (a + 1) h4

/-- A lower bound of a canonical list may be lowered. -/
theorem Memory.canonical_mono (m : Memory) (lo lo' hi : Nat) (hm : m.canonical lo hi = true) (h : lo' ≤ lo) :
    m.canonical lo' hi = true := by
  cases m with
  | nil => rfl
  | cons c rest =>
    obtain ⟨a, b⟩ := c
    simp only [Memory.canonical, Bool.and_eq_true, decide_eq_true_eq] at hm ⊢
    exact ⟨⟨⟨by omega, hm.1.1.2⟩, hm.1.2⟩, hm.2⟩

/-- A write within the bounds keeps the canonical form. -/
theorem Memory.canonical_write (m : Memory) (lo hi k : Nat) (v : Byte) (hm : m.canonical lo hi = true)
    (h1 : lo ≤ k) (h2 : k < hi) : (m.write k v).canonical lo hi = true := by
  induction m generalizing lo with
  | nil =>
    unfold Memory.write
    split <;> simp_all [Memory.canonical]
  | cons c rest ih =>
    obtain ⟨a, b⟩ := c
    have hm' := hm
    simp only [Memory.canonical, Bool.and_eq_true, decide_eq_true_eq, bne_iff_ne] at hm
    obtain ⟨⟨⟨ha1, ha2⟩, ha3⟩, ha4⟩ := hm
    unfold Memory.write
    split
    · split
      · exact hm'
      · simp_all [Memory.canonical]
    · split
      · split
        · exact Memory.canonical_mono rest _ _ _ ha4 (by omega)
        · simp_all [Memory.canonical]
      · simp only [Memory.canonical, Bool.and_eq_true, decide_eq_true_eq, bne_iff_ne]
        exact ⟨⟨⟨ha1, ha2⟩, ha3⟩, ih (a + 1) ha4 (by omega)⟩

/-- A canonical store is `[]` or reads as something else than 0x00 somewhere: equal contents are equal lists. -/
theorem Memory.ext_of_read (m m' : Memory) (lo hi : Nat) (hm : m.canonical lo hi = true) (hm' : m'.canonical lo hi = true)
    (h : ∀ k, m.read k = m'.read k) : m = m' := by
  induction m generalizing m' lo with
  | nil =>
    cases m' with
    | nil => rfl
    | cons c rest =>
      obtain ⟨a, b⟩ := c
      simp only [Memory.canonical, Bool.and_eq_true, bne_iff_ne] at hm'
      have := h a
      simp [Memory.read] at this
      exact absurd this.symm hm'.1.2
  | cons c rest ih =>
    obtain ⟨a, b⟩ := c
    cases m' with
    | nil =>
      simp only [Memory.canonical, Bool.and_eq_true, bne_iff_ne] at hm
      have := h a
      simp [Memory.read] at this
      exact absurd this hm.1.2
    | cons c' rest' =>
      obtain ⟨a', b'⟩ := c'
      simp only [Memory.canonical, Bool.and_eq_true, decide_eq_true_eq, bne_iff_ne] at hm hm'
      obtain ⟨⟨⟨h1, h2⟩, h3⟩, h4⟩ := hm
      obtain ⟨⟨⟨h1', h2'⟩, h3'⟩, h4'⟩ := hm'
      have haa : a = a' := by
        rcases Nat.lt_trichotomy a a' with hlt | heq | hgt
        · have := h a
          simp only [Memory.read, if_pos] at this
          rw [if_neg (by omega), Memory.read_below rest' _ _ a h4' (by omega)] at this
          exact absurd this h3
        · exact heq
        · have := h a'
          simp only [Memory.read, if_pos] at this
          rw [if_neg (by omega), Memory.read_below rest _ _ a' h4 (by omega)] at this
          exact absurd this.symm h3'
      subst haa
      have hb : b = b' := by simpa [Memory.read] using h a
      subst hb
      have hr : rest = rest' := by
        refine ih rest' (a + 1) h4 h4' fun k => ?_
        by_cases hk : a = k
        · subst hk
          rw [Memory.read_below rest _ _ a h4 (by omega), Memory.read_below rest' _ _ a h4' (by omega)]
        · simpa [Memory.read, hk] using h k
      rw [hr]

/-- Loading bytes within the bounds keeps the canonical form (R303). -/
theorem Memory.canonical_load (bs : List Byte) (k lo hi : Nat) (m : Memory) (hm : m.canonical lo hi = true)
    (h1 : lo ≤ k) (h2 : k + bs.length ≤ hi) : (Memory.load bs k m).canonical lo hi = true := by
  induction bs generalizing k m with
  | nil => exact hm
  | cons b bs ih =>
    simp only [List.length_cons] at h2
    exact ih (k + 1) _ (Memory.canonical_write m lo hi k b hm h1 (by omega)) (by omega) (by omega)

/-- The memory after reset is canonical (R37). -/
theorem State.reset_wf : State.reset.mem.wf = true := rfl

/-- Loading a program keeps the memory canonical (R303). -/
theorem State.loadProgram_wf (s : State) (bytes : List Byte) (hm : s.mem.wf = true) : (s.loadProgram bytes).mem.wf = true :=
  Memory.canonical_load _ _ _ _ _ hm (Nat.zero_le _) (by simp [maxProgramBytes])

end Sys2Proof.Machine
end

