-- ==== Sys2Proof/Laws/Console.lean ====
section
/-! SUPPORT. The filtered writer: what one byte does, and that it keeps the console sound. -/

namespace Sys2Proof.Machine

/-- A dropped byte changes nothing (R141, R145). -/
theorem Console.emit_dropped (c : Console) (b : Byte) (h : printable b = false) : c.emit b = c := by
  simp [Console.emit, h]

/-- A stored byte (R142, R143, R144). -/
theorem Console.emit_stored (c : Console) (b : Byte) (h : printable b = true) :
    c.emit b = { cbuf := c.cbuf.write c.cpos b, cpos := (c.cpos + 1) % consoleCapacity,
                 clen := min (c.clen + 1) consoleCapacity, cupd := true } := by
  simp [Console.emit, h]

/-- The empty console is sound. -/
theorem Console.wf_empty (u : Bool) : (Console.mk [] 0 0 u).Wf where
  canonical := rfl
  pos := by simp [consoleCapacity]
  len := by simp
  filling _ := rfl
  valid k h := by simp at h
  unwritten _ _ := rfl

/-- The writer keeps the console sound. -/
theorem Console.wf_emit (c : Console) (b : Byte) (hc : c.Wf) : (c.emit b).Wf := by
  obtain ⟨hcan, hpos, hlen, hfill, hval, hun⟩ := hc
  cases hb : printable b with
  | false => rw [Console.emit_dropped c b hb]; exact ⟨hcan, hpos, hlen, hfill, hval, hun⟩
  | true =>
    rw [Console.emit_stored c b hb]
    simp only [consoleCapacity] at *
    refine ⟨Memory.canonical_write _ _ _ _ _ hcan (Nat.zero_le _) hpos, Nat.mod_lt _ (by decide), by simp [consoleCapacity], ?_, ?_, ?_⟩
    · intro h
      have := hfill (by simp [consoleCapacity] at h; omega)
      simp [consoleCapacity] at h ⊢
      omega
    · intro k hk
      by_cases hkp : k = c.cpos
      · rw [hkp, Memory.read_write_same _ _ _ _ _ hcan]
        exact hb
      · rw [Memory.read_write_other _ _ _ _ hkp]
        apply hval
        by_cases hf : c.clen < 4096
        · have := hfill hf
          simp at hk
          omega
        · simp at hk
          omega
    · intro k hk
      have hne : k ≠ c.cpos := by
        intro e
        by_cases hf : c.clen < 4096
        · have := hfill hf
          simp at hk
          omega
        · simp at hk
          omega
      rw [Memory.read_write_other _ _ _ _ hne]
      apply hun
      simp at hk
      omega

/-- A list of bytes keeps the console sound. -/
theorem Console.wf_emitAll (c : Console) (bs : List Byte) (hc : c.Wf) : (c.emitAll bs).Wf := by
  induction bs generalizing c with
  | nil => exact hc
  | cons b bs ih => exact ih _ (Console.wf_emit c b hc)

@[simp] theorem Console.emitAll_nil (c : Console) : c.emitAll [] = c := rfl

@[simp] theorem Console.emitAll_cons (c : Console) (b : Byte) (bs : List Byte) :
    c.emitAll (b :: bs) = (c.emit b).emitAll bs := rfl

end Sys2Proof.Machine
end

