-- ==== Sys2Proof/Laws/PerInstr.lean ====
section
/-! SUPPORT. The families of facts about every instruction as syntax, one lemma per constructor. -/

namespace Sys2Proof.Laws

open Sys2Proof.Machine

/-- The encoding of an instruction has the length its format gives (R86, R89). -/
def EncodeLength.Statement (i : Instr) : Prop := (encode i).length = i.length

theorem EncodeLength.nop : EncodeLength.Statement (.nop) := rfl
theorem EncodeLength.halt : EncodeLength.Statement (.halt) := rfl
theorem EncodeLength.display : EncodeLength.Statement (.display) := rfl
theorem EncodeLength.ret : EncodeLength.Statement (.ret) := rfl
theorem EncodeLength.pushf : EncodeLength.Statement (.pushf) := rfl
theorem EncodeLength.popf : EncodeLength.Statement (.popf) := rfl
theorem EncodeLength.putc (rs : Reg) : EncodeLength.Statement (.putc rs) := rfl
theorem EncodeLength.puts (rs : Reg) : EncodeLength.Statement (.puts rs) := rfl
theorem EncodeLength.puti (rs : Reg) : EncodeLength.Statement (.puti rs) := rfl
theorem EncodeLength.putx (rs : Reg) : EncodeLength.Statement (.putx rs) := rfl
theorem EncodeLength.mov (rd rs : Reg) : EncodeLength.Statement (.mov rd rs) := rfl
theorem EncodeLength.movi (rd : Reg) (imm : Word) : EncodeLength.Statement (.movi rd imm) := rfl
theorem EncodeLength.load (rd rs : Reg) : EncodeLength.Statement (.load rd rs) := rfl
theorem EncodeLength.loadb (rd rs : Reg) : EncodeLength.Statement (.loadb rd rs) := rfl
theorem EncodeLength.store (rd rs : Reg) : EncodeLength.Statement (.store rd rs) := rfl
theorem EncodeLength.storeb (rd rs : Reg) : EncodeLength.Statement (.storeb rd rs) := rfl
theorem EncodeLength.push (rs : Reg) : EncodeLength.Statement (.push rs) := rfl
theorem EncodeLength.pop (rd : Reg) : EncodeLength.Statement (.pop rd) := rfl
theorem EncodeLength.add (rd rs : Reg) : EncodeLength.Statement (.add rd rs) := rfl
theorem EncodeLength.addi (rd : Reg) (imm : Byte) : EncodeLength.Statement (.addi rd imm) := rfl
theorem EncodeLength.sub (rd rs : Reg) : EncodeLength.Statement (.sub rd rs) := rfl
theorem EncodeLength.subi (rd : Reg) (imm : Byte) : EncodeLength.Statement (.subi rd imm) := rfl
theorem EncodeLength.mul (rd rs : Reg) : EncodeLength.Statement (.mul rd rs) := rfl
theorem EncodeLength.div (rd rs : Reg) : EncodeLength.Statement (.div rd rs) := rfl
theorem EncodeLength.inc (rd : Reg) : EncodeLength.Statement (.inc rd) := rfl
theorem EncodeLength.dec (rd : Reg) : EncodeLength.Statement (.dec rd) := rfl
theorem EncodeLength.neg (rd : Reg) : EncodeLength.Statement (.neg rd) := rfl
theorem EncodeLength.and (rd rs : Reg) : EncodeLength.Statement (.and rd rs) := rfl
theorem EncodeLength.andi (rd : Reg) (imm : Byte) : EncodeLength.Statement (.andi rd imm) := rfl
theorem EncodeLength.or (rd rs : Reg) : EncodeLength.Statement (.or rd rs) := rfl
theorem EncodeLength.ori (rd : Reg) (imm : Byte) : EncodeLength.Statement (.ori rd imm) := rfl
theorem EncodeLength.xor (rd rs : Reg) : EncodeLength.Statement (.xor rd rs) := rfl
theorem EncodeLength.xori (rd : Reg) (imm : Byte) : EncodeLength.Statement (.xori rd imm) := rfl
theorem EncodeLength.not (rd rs : Reg) : EncodeLength.Statement (.not rd rs) := rfl
theorem EncodeLength.shl (rd rs : Reg) : EncodeLength.Statement (.shl rd rs) := rfl
theorem EncodeLength.shr (rd rs : Reg) : EncodeLength.Statement (.shr rd rs) := rfl
theorem EncodeLength.sar (rd rs : Reg) : EncodeLength.Statement (.sar rd rs) := rfl
theorem EncodeLength.shli (rd : Reg) (dist : BitVec 3) : EncodeLength.Statement (.shli rd dist) := rfl
theorem EncodeLength.shri (rd : Reg) (dist : BitVec 3) : EncodeLength.Statement (.shri rd dist) := rfl
theorem EncodeLength.sari (rd : Reg) (dist : BitVec 3) : EncodeLength.Statement (.sari rd dist) := rfl
theorem EncodeLength.cmp (rd rs : Reg) : EncodeLength.Statement (.cmp rd rs) := rfl
theorem EncodeLength.cmpi (rd : Reg) (imm : Byte) : EncodeLength.Statement (.cmpi rd imm) := rfl
theorem EncodeLength.test (rd rs : Reg) : EncodeLength.Statement (.test rd rs) := rfl
theorem EncodeLength.testi (rd : Reg) (imm : Byte) : EncodeLength.Statement (.testi rd imm) := rfl
theorem EncodeLength.jmp (addr : Word) : EncodeLength.Statement (.jmp addr) := rfl
theorem EncodeLength.jmpr (rs : Reg) : EncodeLength.Statement (.jmpr rs) := rfl
theorem EncodeLength.jz (addr : Word) : EncodeLength.Statement (.jz addr) := rfl
theorem EncodeLength.jnz (addr : Word) : EncodeLength.Statement (.jnz addr) := rfl
theorem EncodeLength.jc (addr : Word) : EncodeLength.Statement (.jc addr) := rfl
theorem EncodeLength.jnc (addr : Word) : EncodeLength.Statement (.jnc addr) := rfl
theorem EncodeLength.jn (addr : Word) : EncodeLength.Statement (.jn addr) := rfl
theorem EncodeLength.jnn (addr : Word) : EncodeLength.Statement (.jnn addr) := rfl
theorem EncodeLength.jo (addr : Word) : EncodeLength.Statement (.jo addr) := rfl
theorem EncodeLength.jno (addr : Word) : EncodeLength.Statement (.jno addr) := rfl
theorem EncodeLength.ja (addr : Word) : EncodeLength.Statement (.ja addr) := rfl
theorem EncodeLength.jbe (addr : Word) : EncodeLength.Statement (.jbe addr) := rfl
theorem EncodeLength.jg (addr : Word) : EncodeLength.Statement (.jg addr) := rfl
theorem EncodeLength.jge (addr : Word) : EncodeLength.Statement (.jge addr) := rfl
theorem EncodeLength.jl (addr : Word) : EncodeLength.Statement (.jl addr) := rfl
theorem EncodeLength.jle (addr : Word) : EncodeLength.Statement (.jle addr) := rfl
theorem EncodeLength.call (addr : Word) : EncodeLength.Statement (.call addr) := rfl
theorem EncodeLength.callr (rs : Reg) : EncodeLength.Statement (.callr rs) := rfl
theorem EncodeLength.memcpy : EncodeLength.Statement (.memcpy) := rfl
theorem EncodeLength.memset : EncodeLength.Statement (.memset) := rfl
theorem EncodeLength.unknown (op : Byte) : EncodeLength.Statement (.unknown op) := rfl

/-- A defined instruction's opcode has that instruction's format: the opcode alone fixes it (R86, R92). -/
def OpcodeFormat.Statement (i : Instr) : Prop := i.wellFormed = true → formatOf (opcodeOf i) = i.format

theorem formatOf_unknown (op : Byte) (h : isUnknownOpcode op = true) : formatOf op = .O := by
  revert op; decide

theorem OpcodeFormat.nop : OpcodeFormat.Statement (.nop) := fun _ => rfl
theorem OpcodeFormat.halt : OpcodeFormat.Statement (.halt) := fun _ => rfl
theorem OpcodeFormat.display : OpcodeFormat.Statement (.display) := fun _ => rfl
theorem OpcodeFormat.ret : OpcodeFormat.Statement (.ret) := fun _ => rfl
theorem OpcodeFormat.pushf : OpcodeFormat.Statement (.pushf) := fun _ => rfl
theorem OpcodeFormat.popf : OpcodeFormat.Statement (.popf) := fun _ => rfl
theorem OpcodeFormat.putc (rs : Reg) : OpcodeFormat.Statement (.putc rs) := fun _ => rfl
theorem OpcodeFormat.puts (rs : Reg) : OpcodeFormat.Statement (.puts rs) := fun _ => rfl
theorem OpcodeFormat.puti (rs : Reg) : OpcodeFormat.Statement (.puti rs) := fun _ => rfl
theorem OpcodeFormat.putx (rs : Reg) : OpcodeFormat.Statement (.putx rs) := fun _ => rfl
theorem OpcodeFormat.mov (rd rs : Reg) : OpcodeFormat.Statement (.mov rd rs) := fun _ => rfl
theorem OpcodeFormat.movi (rd : Reg) (imm : Word) : OpcodeFormat.Statement (.movi rd imm) := fun _ => rfl
theorem OpcodeFormat.load (rd rs : Reg) : OpcodeFormat.Statement (.load rd rs) := fun _ => rfl
theorem OpcodeFormat.loadb (rd rs : Reg) : OpcodeFormat.Statement (.loadb rd rs) := fun _ => rfl
theorem OpcodeFormat.store (rd rs : Reg) : OpcodeFormat.Statement (.store rd rs) := fun _ => rfl
theorem OpcodeFormat.storeb (rd rs : Reg) : OpcodeFormat.Statement (.storeb rd rs) := fun _ => rfl
theorem OpcodeFormat.push (rs : Reg) : OpcodeFormat.Statement (.push rs) := fun _ => rfl
theorem OpcodeFormat.pop (rd : Reg) : OpcodeFormat.Statement (.pop rd) := fun _ => rfl
theorem OpcodeFormat.add (rd rs : Reg) : OpcodeFormat.Statement (.add rd rs) := fun _ => rfl
theorem OpcodeFormat.addi (rd : Reg) (imm : Byte) : OpcodeFormat.Statement (.addi rd imm) := fun _ => rfl
theorem OpcodeFormat.sub (rd rs : Reg) : OpcodeFormat.Statement (.sub rd rs) := fun _ => rfl
theorem OpcodeFormat.subi (rd : Reg) (imm : Byte) : OpcodeFormat.Statement (.subi rd imm) := fun _ => rfl
theorem OpcodeFormat.mul (rd rs : Reg) : OpcodeFormat.Statement (.mul rd rs) := fun _ => rfl
theorem OpcodeFormat.div (rd rs : Reg) : OpcodeFormat.Statement (.div rd rs) := fun _ => rfl
theorem OpcodeFormat.inc (rd : Reg) : OpcodeFormat.Statement (.inc rd) := fun _ => rfl
theorem OpcodeFormat.dec (rd : Reg) : OpcodeFormat.Statement (.dec rd) := fun _ => rfl
theorem OpcodeFormat.neg (rd : Reg) : OpcodeFormat.Statement (.neg rd) := fun _ => rfl
theorem OpcodeFormat.and (rd rs : Reg) : OpcodeFormat.Statement (.and rd rs) := fun _ => rfl
theorem OpcodeFormat.andi (rd : Reg) (imm : Byte) : OpcodeFormat.Statement (.andi rd imm) := fun _ => rfl
theorem OpcodeFormat.or (rd rs : Reg) : OpcodeFormat.Statement (.or rd rs) := fun _ => rfl
theorem OpcodeFormat.ori (rd : Reg) (imm : Byte) : OpcodeFormat.Statement (.ori rd imm) := fun _ => rfl
theorem OpcodeFormat.xor (rd rs : Reg) : OpcodeFormat.Statement (.xor rd rs) := fun _ => rfl
theorem OpcodeFormat.xori (rd : Reg) (imm : Byte) : OpcodeFormat.Statement (.xori rd imm) := fun _ => rfl
theorem OpcodeFormat.not (rd rs : Reg) : OpcodeFormat.Statement (.not rd rs) := fun _ => rfl
theorem OpcodeFormat.shl (rd rs : Reg) : OpcodeFormat.Statement (.shl rd rs) := fun _ => rfl
theorem OpcodeFormat.shr (rd rs : Reg) : OpcodeFormat.Statement (.shr rd rs) := fun _ => rfl
theorem OpcodeFormat.sar (rd rs : Reg) : OpcodeFormat.Statement (.sar rd rs) := fun _ => rfl
theorem OpcodeFormat.shli (rd : Reg) (dist : BitVec 3) : OpcodeFormat.Statement (.shli rd dist) := fun _ => rfl
theorem OpcodeFormat.shri (rd : Reg) (dist : BitVec 3) : OpcodeFormat.Statement (.shri rd dist) := fun _ => rfl
theorem OpcodeFormat.sari (rd : Reg) (dist : BitVec 3) : OpcodeFormat.Statement (.sari rd dist) := fun _ => rfl
theorem OpcodeFormat.cmp (rd rs : Reg) : OpcodeFormat.Statement (.cmp rd rs) := fun _ => rfl
theorem OpcodeFormat.cmpi (rd : Reg) (imm : Byte) : OpcodeFormat.Statement (.cmpi rd imm) := fun _ => rfl
theorem OpcodeFormat.test (rd rs : Reg) : OpcodeFormat.Statement (.test rd rs) := fun _ => rfl
theorem OpcodeFormat.testi (rd : Reg) (imm : Byte) : OpcodeFormat.Statement (.testi rd imm) := fun _ => rfl
theorem OpcodeFormat.jmp (addr : Word) : OpcodeFormat.Statement (.jmp addr) := fun _ => rfl
theorem OpcodeFormat.jmpr (rs : Reg) : OpcodeFormat.Statement (.jmpr rs) := fun _ => rfl
theorem OpcodeFormat.jz (addr : Word) : OpcodeFormat.Statement (.jz addr) := fun _ => rfl
theorem OpcodeFormat.jnz (addr : Word) : OpcodeFormat.Statement (.jnz addr) := fun _ => rfl
theorem OpcodeFormat.jc (addr : Word) : OpcodeFormat.Statement (.jc addr) := fun _ => rfl
theorem OpcodeFormat.jnc (addr : Word) : OpcodeFormat.Statement (.jnc addr) := fun _ => rfl
theorem OpcodeFormat.jn (addr : Word) : OpcodeFormat.Statement (.jn addr) := fun _ => rfl
theorem OpcodeFormat.jnn (addr : Word) : OpcodeFormat.Statement (.jnn addr) := fun _ => rfl
theorem OpcodeFormat.jo (addr : Word) : OpcodeFormat.Statement (.jo addr) := fun _ => rfl
theorem OpcodeFormat.jno (addr : Word) : OpcodeFormat.Statement (.jno addr) := fun _ => rfl
theorem OpcodeFormat.ja (addr : Word) : OpcodeFormat.Statement (.ja addr) := fun _ => rfl
theorem OpcodeFormat.jbe (addr : Word) : OpcodeFormat.Statement (.jbe addr) := fun _ => rfl
theorem OpcodeFormat.jg (addr : Word) : OpcodeFormat.Statement (.jg addr) := fun _ => rfl
theorem OpcodeFormat.jge (addr : Word) : OpcodeFormat.Statement (.jge addr) := fun _ => rfl
theorem OpcodeFormat.jl (addr : Word) : OpcodeFormat.Statement (.jl addr) := fun _ => rfl
theorem OpcodeFormat.jle (addr : Word) : OpcodeFormat.Statement (.jle addr) := fun _ => rfl
theorem OpcodeFormat.call (addr : Word) : OpcodeFormat.Statement (.call addr) := fun _ => rfl
theorem OpcodeFormat.callr (rs : Reg) : OpcodeFormat.Statement (.callr rs) := fun _ => rfl
theorem OpcodeFormat.memcpy : OpcodeFormat.Statement (.memcpy) := fun _ => rfl
theorem OpcodeFormat.memset : OpcodeFormat.Statement (.memset) := fun _ => rfl
theorem OpcodeFormat.unknown (op : Byte) : OpcodeFormat.Statement (.unknown op) := fun h => formatOf_unknown op h

end Sys2Proof.Laws
end

