-- ==== Sys2Proof/Laws/State.lean ====
section
/-! SUPPORT. The field lemmas of the updates of State: one per field per update, each true by definition. -/

namespace Sys2Proof.Machine

variable (s : State)

/-! `State.setReg` -/

@[simp] theorem State.setReg_pc (r : Reg) (v : Word) : (s.setReg r v).pc = s.pc := rfl
@[simp] theorem State.setReg_sp (r : Reg) (v : Word) : (s.setReg r v).sp = s.sp := rfl
@[simp] theorem State.setReg_flags (r : Reg) (v : Word) : (s.setReg r v).flags = s.flags := rfl
@[simp] theorem State.setReg_halted (r : Reg) (v : Word) : (s.setReg r v).halted = s.halted := rfl
@[simp] theorem State.setReg_displayRequested (r : Reg) (v : Word) : (s.setReg r v).displayRequested = s.displayRequested := rfl
@[simp] theorem State.setReg_waitingForInput (r : Reg) (v : Word) : (s.setReg r v).waitingForInput = s.waitingForInput := rfl
@[simp] theorem State.setReg_cycles (r : Reg) (v : Word) : (s.setReg r v).cycles = s.cycles := rfl
@[simp] theorem State.setReg_console (r : Reg) (v : Word) : (s.setReg r v).console = s.console := rfl
@[simp] theorem State.setReg_mem (r : Reg) (v : Word) : (s.setReg r v).mem = s.mem := rfl
@[simp] theorem State.setReg_sysTimer (r : Reg) (v : Word) : (s.setReg r v).sysTimer = s.sysTimer := rfl
@[simp] theorem State.setReg_countdown (r : Reg) (v : Word) : (s.setReg r v).countdown = s.countdown := rfl
@[simp] theorem State.setReg_keyCode (r : Reg) (v : Word) : (s.setReg r v).keyCode = s.keyCode := rfl
@[simp] theorem State.setReg_keyState (r : Reg) (v : Word) : (s.setReg r v).keyState = s.keyState := rfl
@[simp] theorem State.setReg_params (r : Reg) (v : Word) : (s.setReg r v).params = s.params := rfl
@[simp] theorem State.setReg_freeCount (r : Reg) (v : Word) : (s.setReg r v).freeCount = s.freeCount := rfl
@[simp] theorem State.setReg_read8 (r : Reg) (v : Word) (b : Word) : (s.setReg r v).read8 b = s.read8 b := rfl
@[simp] theorem State.setReg_read16 (r : Reg) (v : Word) (b : Word) : (s.setReg r v).read16 b = s.read16 b := rfl

/-! `State.setPc` -/

@[simp] theorem State.setPc_regs (a : Word) : (s.setPc a).regs = s.regs := rfl
@[simp] theorem State.setPc_pc (a : Word) : (s.setPc a).pc = a := rfl
@[simp] theorem State.setPc_sp (a : Word) : (s.setPc a).sp = s.sp := rfl
@[simp] theorem State.setPc_flags (a : Word) : (s.setPc a).flags = s.flags := rfl
@[simp] theorem State.setPc_halted (a : Word) : (s.setPc a).halted = s.halted := rfl
@[simp] theorem State.setPc_displayRequested (a : Word) : (s.setPc a).displayRequested = s.displayRequested := rfl
@[simp] theorem State.setPc_waitingForInput (a : Word) : (s.setPc a).waitingForInput = s.waitingForInput := rfl
@[simp] theorem State.setPc_cycles (a : Word) : (s.setPc a).cycles = s.cycles := rfl
@[simp] theorem State.setPc_console (a : Word) : (s.setPc a).console = s.console := rfl
@[simp] theorem State.setPc_mem (a : Word) : (s.setPc a).mem = s.mem := rfl
@[simp] theorem State.setPc_sysTimer (a : Word) : (s.setPc a).sysTimer = s.sysTimer := rfl
@[simp] theorem State.setPc_countdown (a : Word) : (s.setPc a).countdown = s.countdown := rfl
@[simp] theorem State.setPc_keyCode (a : Word) : (s.setPc a).keyCode = s.keyCode := rfl
@[simp] theorem State.setPc_keyState (a : Word) : (s.setPc a).keyState = s.keyState := rfl
@[simp] theorem State.setPc_params (a : Word) : (s.setPc a).params = s.params := rfl
@[simp] theorem State.setPc_freeCount (a : Word) : (s.setPc a).freeCount = s.freeCount := rfl
@[simp] theorem State.setPc_reg (a : Word) (q : Reg) : (s.setPc a).reg q = s.reg q := rfl
@[simp] theorem State.setPc_read8 (a : Word) (b : Word) : (s.setPc a).read8 b = s.read8 b := rfl
@[simp] theorem State.setPc_read16 (a : Word) (b : Word) : (s.setPc a).read16 b = s.read16 b := rfl

/-! `State.setSp` -/

@[simp] theorem State.setSp_regs (a : Word) : (s.setSp a).regs = s.regs := rfl
@[simp] theorem State.setSp_pc (a : Word) : (s.setSp a).pc = s.pc := rfl
@[simp] theorem State.setSp_sp (a : Word) : (s.setSp a).sp = a := rfl
@[simp] theorem State.setSp_flags (a : Word) : (s.setSp a).flags = s.flags := rfl
@[simp] theorem State.setSp_halted (a : Word) : (s.setSp a).halted = s.halted := rfl
@[simp] theorem State.setSp_displayRequested (a : Word) : (s.setSp a).displayRequested = s.displayRequested := rfl
@[simp] theorem State.setSp_waitingForInput (a : Word) : (s.setSp a).waitingForInput = s.waitingForInput := rfl
@[simp] theorem State.setSp_cycles (a : Word) : (s.setSp a).cycles = s.cycles := rfl
@[simp] theorem State.setSp_console (a : Word) : (s.setSp a).console = s.console := rfl
@[simp] theorem State.setSp_mem (a : Word) : (s.setSp a).mem = s.mem := rfl
@[simp] theorem State.setSp_sysTimer (a : Word) : (s.setSp a).sysTimer = s.sysTimer := rfl
@[simp] theorem State.setSp_countdown (a : Word) : (s.setSp a).countdown = s.countdown := rfl
@[simp] theorem State.setSp_keyCode (a : Word) : (s.setSp a).keyCode = s.keyCode := rfl
@[simp] theorem State.setSp_keyState (a : Word) : (s.setSp a).keyState = s.keyState := rfl
@[simp] theorem State.setSp_params (a : Word) : (s.setSp a).params = s.params := rfl
@[simp] theorem State.setSp_freeCount (a : Word) : (s.setSp a).freeCount = s.freeCount := rfl
@[simp] theorem State.setSp_reg (a : Word) (q : Reg) : (s.setSp a).reg q = s.reg q := rfl
@[simp] theorem State.setSp_read8 (a : Word) (b : Word) : (s.setSp a).read8 b = s.read8 b := rfl
@[simp] theorem State.setSp_read16 (a : Word) (b : Word) : (s.setSp a).read16 b = s.read16 b := rfl

/-! `State.setFlags` -/

@[simp] theorem State.setFlags_regs (f : Flags) : (s.setFlags f).regs = s.regs := rfl
@[simp] theorem State.setFlags_pc (f : Flags) : (s.setFlags f).pc = s.pc := rfl
@[simp] theorem State.setFlags_sp (f : Flags) : (s.setFlags f).sp = s.sp := rfl
@[simp] theorem State.setFlags_flags (f : Flags) : (s.setFlags f).flags = f := rfl
@[simp] theorem State.setFlags_halted (f : Flags) : (s.setFlags f).halted = s.halted := rfl
@[simp] theorem State.setFlags_displayRequested (f : Flags) : (s.setFlags f).displayRequested = s.displayRequested := rfl
@[simp] theorem State.setFlags_waitingForInput (f : Flags) : (s.setFlags f).waitingForInput = s.waitingForInput := rfl
@[simp] theorem State.setFlags_cycles (f : Flags) : (s.setFlags f).cycles = s.cycles := rfl
@[simp] theorem State.setFlags_console (f : Flags) : (s.setFlags f).console = s.console := rfl
@[simp] theorem State.setFlags_mem (f : Flags) : (s.setFlags f).mem = s.mem := rfl
@[simp] theorem State.setFlags_sysTimer (f : Flags) : (s.setFlags f).sysTimer = s.sysTimer := rfl
@[simp] theorem State.setFlags_countdown (f : Flags) : (s.setFlags f).countdown = s.countdown := rfl
@[simp] theorem State.setFlags_keyCode (f : Flags) : (s.setFlags f).keyCode = s.keyCode := rfl
@[simp] theorem State.setFlags_keyState (f : Flags) : (s.setFlags f).keyState = s.keyState := rfl
@[simp] theorem State.setFlags_params (f : Flags) : (s.setFlags f).params = s.params := rfl
@[simp] theorem State.setFlags_freeCount (f : Flags) : (s.setFlags f).freeCount = s.freeCount := rfl
@[simp] theorem State.setFlags_reg (f : Flags) (q : Reg) : (s.setFlags f).reg q = s.reg q := rfl
@[simp] theorem State.setFlags_read8 (f : Flags) (b : Word) : (s.setFlags f).read8 b = s.read8 b := rfl
@[simp] theorem State.setFlags_read16 (f : Flags) (b : Word) : (s.setFlags f).read16 b = s.read16 b := rfl

/-! `State.charge` -/

@[simp] theorem State.charge_regs (n : Nat) : (s.charge n).regs = s.regs := rfl
@[simp] theorem State.charge_pc (n : Nat) : (s.charge n).pc = s.pc := rfl
@[simp] theorem State.charge_sp (n : Nat) : (s.charge n).sp = s.sp := rfl
@[simp] theorem State.charge_flags (n : Nat) : (s.charge n).flags = s.flags := rfl
@[simp] theorem State.charge_halted (n : Nat) : (s.charge n).halted = s.halted := rfl
@[simp] theorem State.charge_displayRequested (n : Nat) : (s.charge n).displayRequested = s.displayRequested := rfl
@[simp] theorem State.charge_waitingForInput (n : Nat) : (s.charge n).waitingForInput = s.waitingForInput := rfl
@[simp] theorem State.charge_cycles (n : Nat) : (s.charge n).cycles = s.cycles + BitVec.ofNat 64 n := rfl
@[simp] theorem State.charge_console (n : Nat) : (s.charge n).console = s.console := rfl
@[simp] theorem State.charge_mem (n : Nat) : (s.charge n).mem = s.mem := rfl
@[simp] theorem State.charge_sysTimer (n : Nat) : (s.charge n).sysTimer = s.sysTimer := rfl
@[simp] theorem State.charge_countdown (n : Nat) : (s.charge n).countdown = s.countdown := rfl
@[simp] theorem State.charge_keyCode (n : Nat) : (s.charge n).keyCode = s.keyCode := rfl
@[simp] theorem State.charge_keyState (n : Nat) : (s.charge n).keyState = s.keyState := rfl
@[simp] theorem State.charge_params (n : Nat) : (s.charge n).params = s.params := rfl
@[simp] theorem State.charge_freeCount (n : Nat) : (s.charge n).freeCount = s.freeCount := rfl
@[simp] theorem State.charge_reg (n : Nat) (q : Reg) : (s.charge n).reg q = s.reg q := rfl
@[simp] theorem State.charge_read8 (n : Nat) (b : Word) : (s.charge n).read8 b = s.read8 b := rfl
@[simp] theorem State.charge_read16 (n : Nat) (b : Word) : (s.charge n).read16 b = s.read16 b := rfl

/-! `State.emitAll` -/

@[simp] theorem State.emitAll_regs (bs : List Byte) : (s.emitAll bs).regs = s.regs := rfl
@[simp] theorem State.emitAll_pc (bs : List Byte) : (s.emitAll bs).pc = s.pc := rfl
@[simp] theorem State.emitAll_sp (bs : List Byte) : (s.emitAll bs).sp = s.sp := rfl
@[simp] theorem State.emitAll_flags (bs : List Byte) : (s.emitAll bs).flags = s.flags := rfl
@[simp] theorem State.emitAll_halted (bs : List Byte) : (s.emitAll bs).halted = s.halted := rfl
@[simp] theorem State.emitAll_displayRequested (bs : List Byte) : (s.emitAll bs).displayRequested = s.displayRequested := rfl
@[simp] theorem State.emitAll_waitingForInput (bs : List Byte) : (s.emitAll bs).waitingForInput = s.waitingForInput := rfl
@[simp] theorem State.emitAll_cycles (bs : List Byte) : (s.emitAll bs).cycles = s.cycles := rfl
@[simp] theorem State.emitAll_console (bs : List Byte) : (s.emitAll bs).console = s.console.emitAll bs := rfl
@[simp] theorem State.emitAll_mem (bs : List Byte) : (s.emitAll bs).mem = s.mem := rfl
@[simp] theorem State.emitAll_sysTimer (bs : List Byte) : (s.emitAll bs).sysTimer = s.sysTimer := rfl
@[simp] theorem State.emitAll_countdown (bs : List Byte) : (s.emitAll bs).countdown = s.countdown := rfl
@[simp] theorem State.emitAll_keyCode (bs : List Byte) : (s.emitAll bs).keyCode = s.keyCode := rfl
@[simp] theorem State.emitAll_keyState (bs : List Byte) : (s.emitAll bs).keyState = s.keyState := rfl
@[simp] theorem State.emitAll_params (bs : List Byte) : (s.emitAll bs).params = s.params := rfl
@[simp] theorem State.emitAll_freeCount (bs : List Byte) : (s.emitAll bs).freeCount = s.freeCount := rfl
@[simp] theorem State.emitAll_reg (bs : List Byte) (q : Reg) : (s.emitAll bs).reg q = s.reg q := rfl
@[simp] theorem State.emitAll_read8 (bs : List Byte) (b : Word) : (s.emitAll bs).read8 b = s.read8 b := rfl
@[simp] theorem State.emitAll_read16 (bs : List Byte) (b : Word) : (s.emitAll bs).read16 b = s.read16 b := rfl

/-! Reading a register after writing one -/

theorem State.reg_setReg (r q : Reg) (v : Word) : (s.setReg r v).reg q = if r = q then v else s.reg q := by
  simp [State.reg, State.setReg, Vector.get_eq_getElem, Vector.getElem_set, BitVec.toNat_eq]

@[simp] theorem State.reg_setReg_same (r : Reg) (v : Word) : (s.setReg r v).reg r = v := by simp [State.reg_setReg]

theorem State.reg_setReg_other (r q : Reg) (v : Word) (h : q ≠ r) : (s.setReg r v).reg q = s.reg q := by
  simp [State.reg_setReg, Ne.symm h]

/-! The stack's halves -/

@[simp] theorem State.pop16_fst : s.pop16.1 = s.read16 s.sp := rfl
@[simp] theorem State.pop16_snd : s.pop16.2 = s.setSp (s.sp + 2) := rfl

/-! `retire` answers a next state, and says which -/

@[simp] theorem retire_eq_next (n : Nat) (t : State) : retire n s = .next t ↔ t = s.charge n := by
  simp [retire, eq_comm]

end Sys2Proof.Machine
end

