-- ==== Sys2Proof/Laws/Fetch.lean ====
section
/-! SUPPORT. What decode and fetch give, said once: an unknown opcode, the format of a decoded instruction, and the whole fetch. -/

namespace Sys2Proof

open Sys2Proof.Machine

/-- An unknown opcode decodes as itself, whatever follows (R93). -/
theorem decodeBytes_unknown (op b1 b2 b3 : Byte) (h : isUnknownOpcode op = true) : decodeBytes op b1 b2 b3 = .unknown op := by
  unfold decodeBytes
  split <;> first | rfl | (rename_i h'; simp [isUnknownOpcode, h'] at h)

/-- The format of a decoded instruction is that of its opcode (R86). -/
theorem decodeBytes_format (op b1 b2 b3 : Byte) : (decodeBytes op b1 b2 b3).format = formatOf op := by
  unfold formatOf decodeBytes
  split <;> rfl

/-- The length of a decoded instruction is that of its opcode's format (R86). -/
theorem decodeBytes_length (op b1 b2 b3 : Byte) : (decodeBytes op b1 b2 b3).length = (formatOf op).length := by
  rw [Instr.length, decodeBytes_format]

/-- A format is 1 to 4 bytes long (R86). -/
theorem Format.length_bounds (f : Format) : 1 ≤ f.length ∧ f.length ≤ 4 := by cases f <;> decide

/-- A 1-byte instruction looks at its opcode only (R89). -/
theorem decodeBytes_one (op b1 b2 b3 : Byte) (h : (formatOf op).length = 1) : decodeBytes op b1 b2 b3 = decodeBytes op 0 0 0 := by
  revert h
  unfold formatOf decodeBytes
  split <;> first | (intro _; rfl) | (intro h; exact absurd h (by decide))

/-- A 2-byte instruction looks at two bytes only (R89). -/
theorem decodeBytes_two (op b1 b2 b3 : Byte) (h : (formatOf op).length = 2) : decodeBytes op b1 b2 b3 = decodeBytes op b1 0 0 := by
  revert h
  unfold formatOf decodeBytes
  split <;> first | (intro _; rfl) | (intro h; exact absurd h (by decide))

/-- A 3-byte instruction looks at three bytes only (R89). -/
theorem decodeBytes_three (op b1 b2 b3 : Byte) (h : (formatOf op).length = 3) : decodeBytes op b1 b2 b3 = decodeBytes op b1 b2 0 := by
  revert h
  unfold formatOf decodeBytes
  split <;> first | (intro _; rfl) | (intro h; exact absurd h (by decide))

/-- The whole fetch: the instruction of the bytes at `pc`, and `pc` past them; nothing else changes (R127, R128). -/
theorem Machine.State.fetchInstr_eq (s : State) : s.fetchInstr =
    (decodeBytes (s.read8 s.pc) (s.read8 (s.pc + 1)) (s.read8 (s.pc + 2)) (s.read8 (s.pc + 3)),
     s.setPc (s.pc + BitVec.ofNat 16 (formatOf (s.read8 s.pc)).length)) := by
  have e2 : s.pc + 1 + 1 = s.pc + 2 := by bv_omega
  have e3 : s.pc + 2 + 1 = s.pc + 3 := by bv_omega
  have e4 : s.pc + 3 + 1 = s.pc + 4 := by bv_omega
  unfold State.fetchInstr State.fetch8
  simp only [State.setPc_read8, State.setPc_pc, e2, e3, e4]
  rcases hf : formatOf (s.read8 s.pc) with _ | _ | _ | _ | _ | _ | _ | _
  · exact Prod.ext (decodeBytes_one _ _ _ _ (by rw [hf]; rfl)).symm rfl
  · exact Prod.ext (decodeBytes_two _ _ _ _ (by rw [hf]; rfl)).symm rfl
  · exact Prod.ext (decodeBytes_two _ _ _ _ (by rw [hf]; rfl)).symm rfl
  · exact Prod.ext (decodeBytes_two _ _ _ _ (by rw [hf]; rfl)).symm rfl
  · exact Prod.ext (decodeBytes_two _ _ _ _ (by rw [hf]; rfl)).symm rfl
  · exact Prod.ext (decodeBytes_three _ _ _ _ (by rw [hf]; rfl)).symm rfl
  · rfl
  · exact Prod.ext (decodeBytes_three _ _ _ _ (by rw [hf]; rfl)).symm rfl

end Sys2Proof
end

