-- ==== Sys2Proof/Laws/Host.lean ====
section
/-! SUPPORT. The laws of the host's loop `step(max_cycles)` (60_exceptions.md R290): one equation for a turn of each kind, and the loop
without a bound against the loop cut after a number of turns. -/

namespace Sys2Proof.Machine

theorem State.hostStepLoop_returns {maxCycles run r : Nat} {s t : State} (h : s.hostTurn maxCycles run = .returns t r) :
    s.hostStepLoop maxCycles run = some (t, r) := by
  rw [State.hostStepLoop, h]

theorem State.hostStepLoop_goesOn {maxCycles run r : Nat} {s t : State} (h : s.hostTurn maxCycles run = .goesOn t r) :
    s.hostStepLoop maxCycles run = t.hostStepLoop maxCycles r := by
  rw [State.hostStepLoop, h]

/-- The loop ends with a result exactly where some number of turns is enough for it. -/
theorem State.hostStepLoop_eq_some_iff {maxCycles run : Nat} {s : State} {p : State × Nat} :
    s.hostStepLoop maxCycles run = some p ↔ ∃ fuel, s.hostStepWithin maxCycles fuel run = some p := by
  constructor
  · intro h
    refine State.hostStepLoop.partial_correctness maxCycles
      (fun run s p => ∃ fuel, s.hostStepWithin maxCycles fuel run = some p) ?_ run s p h
    intro loop ih run s p h
    split at h
    · next ht => exact ⟨1, by rw [State.hostStepWithin, ht]; exact h⟩
    · next ht =>
      obtain ⟨fuel, hf⟩ := ih _ _ _ h
      exact ⟨fuel + 1, by rw [State.hostStepWithin, ht]; exact hf⟩
    · cases h
  · rintro ⟨fuel, h⟩
    induction fuel generalizing run s with
    | zero => cases h
    | succ fuel ih =>
      rw [State.hostStepWithin] at h
      split at h
      · next ht => rw [State.hostStepLoop_returns ht]; exact h
      · next ht => rw [State.hostStepLoop_goesOn ht]; exact ih h
      · cases h

/-- What the cut loop answers is the answer of the host's `step(max_cycles)`. -/
theorem State.hostStep_eq_of_within {maxCycles : Nat} {s : State} (fuel : Nat) {p : State × Nat}
    (h : s.hostStepWithin maxCycles fuel 0 = some p) : s.hostStep maxCycles = some p :=
  State.hostStepLoop_eq_some_iff.mpr ⟨fuel, h⟩

/-- The same for a part `f` of the answer. -/
theorem State.hostStep_map_of_within {maxCycles : Nat} {s : State} {α : Type} {f : State × Nat → α} {y : α} (fuel : Nat)
    (h : (s.hostStepWithin maxCycles fuel 0).map f = some y) : (s.hostStep maxCycles).map f = some y := by
  obtain ⟨p, hp, rfl⟩ := Option.map_eq_some_iff.mp h
  rw [State.hostStep_eq_of_within fuel hp, Option.map_some]

end Sys2Proof.Machine
end

