-- ==== Sys2Proof/Laws/Ops.lean ====
section
/-! SUPPORT. What each shared operation on memory can do: one byte write, the word and stack writes over it, and the loops. -/

namespace Sys2Proof.Machine

/-! The address map -/

theorem targetOf_store {a : Word} (h : targetOf a = .store) : a.toNat < 0xFFF0 := by
  by_contra hn
  simp only [targetOf, if_neg hn] at h
  split at h <;> simp at h

theorem targetOf_of_lt {a : Word} (h : a.toNat < 0xFFF0) : targetOf a = .store := by simp [targetOf, h]

/-- Each device byte stands behind one address. -/
theorem targetOf_inj {a b : Word} {t : Target} (ha : targetOf a = t) (hb : targetOf b = t)
    (ht : t ≠ .store ∧ t ≠ .reserved) : a = b := by
  apply BitVec.eq_of_toNat_eq
  have key : ∀ c : Word, targetOf c = t → c.toNat = (match t with
      | .sysTimerLow => 0xFFF0 | .sysTimerHigh => 0xFFF1 | .countdownLow => 0xFFF2 | .countdownHigh => 0xFFF3
      | .keyCode => 0xFFF4 | _ => 0xFFF5) := by
    intro c hc
    unfold targetOf at hc
    split at hc
    · exact absurd hc.symm ht.1
    · split at hc <;> subst hc <;> first | assumption | exact absurd rfl ht.2
  rw [key a ha, key b hb]

/-! One byte write changes the store or the countdown, and nothing else -/

variable (s : State)

@[simp] theorem State.write8_regs (a : Word) (v : Byte) : (s.write8 a v).regs = s.regs := by
  unfold State.write8; split <;> rfl

@[simp] theorem State.write8_pc (a : Word) (v : Byte) : (s.write8 a v).pc = s.pc := by
  unfold State.write8; split <;> rfl

@[simp] theorem State.write8_sp (a : Word) (v : Byte) : (s.write8 a v).sp = s.sp := by
  unfold State.write8; split <;> rfl

@[simp] theorem State.write8_flags (a : Word) (v : Byte) : (s.write8 a v).flags = s.flags := by
  unfold State.write8; split <;> rfl

@[simp] theorem State.write8_halted (a : Word) (v : Byte) : (s.write8 a v).halted = s.halted := by
  unfold State.write8; split <;> rfl

@[simp] theorem State.write8_displayRequested (a : Word) (v : Byte) : (s.write8 a v).displayRequested = s.displayRequested := by
  unfold State.write8; split <;> rfl

@[simp] theorem State.write8_waitingForInput (a : Word) (v : Byte) : (s.write8 a v).waitingForInput = s.waitingForInput := by
  unfold State.write8; split <;> rfl

@[simp] theorem State.write8_cycles (a : Word) (v : Byte) : (s.write8 a v).cycles = s.cycles := by
  unfold State.write8; split <;> rfl

@[simp] theorem State.write8_console (a : Word) (v : Byte) : (s.write8 a v).console = s.console := by
  unfold State.write8; split <;> rfl

@[simp] theorem State.write8_sysTimer (a : Word) (v : Byte) : (s.write8 a v).sysTimer = s.sysTimer := by
  unfold State.write8; split <;> rfl

@[simp] theorem State.write8_keyCode (a : Word) (v : Byte) : (s.write8 a v).keyCode = s.keyCode := by
  unfold State.write8; split <;> rfl

@[simp] theorem State.write8_keyState (a : Word) (v : Byte) : (s.write8 a v).keyState = s.keyState := by
  unfold State.write8; split <;> rfl

@[simp] theorem State.write8_params (a : Word) (v : Byte) : (s.write8 a v).params = s.params := by
  unfold State.write8; split <;> rfl

@[simp] theorem State.write8_freeCount (a : Word) (v : Byte) : (s.write8 a v).freeCount = s.freeCount := by
  unfold State.write8; split <;> rfl

@[simp] theorem State.write8_reg (a : Word) (v : Byte) (q : Reg) : (s.write8 a v).reg q = s.reg q := by
  simp [State.reg]

/-- A byte write leaves every other address alone (R59). -/
theorem State.read8_write8_other (a b : Word) (v : Byte) (h : b ≠ a) : (s.write8 a v).read8 b = s.read8 b := by
  have hn : b.toNat ≠ a.toNat := fun e => h (BitVec.eq_of_toNat_eq e)
  unfold State.write8
  split
  · unfold State.read8
    split <;> simp [Memory.read_write_other _ _ _ _ hn]
  · next ha =>
    unfold State.read8
    split <;> first | rfl | skip
    next hb => exact absurd (targetOf_inj ha hb (by simp)) (Ne.symm h)
    next hb => simp
  · next ha =>
    unfold State.read8
    split <;> first | rfl | skip
    next hb => simp
    next hb => exact absurd (targetOf_inj ha hb (by simp)) (Ne.symm h)
  all_goals rfl

/-- What a byte write leaves to read at its own address: the byte in the store (in canonical form) and in the countdown, the
device byte elsewhere (R57, R59, R77). -/
theorem State.read8_write8_same (a : Word) (v : Byte) (hm : s.mem.wf = true) :
    (s.write8 a v).read8 a =
      if targetOf a = .store ∨ targetOf a = .countdownLow ∨ targetOf a = .countdownHigh then v else s.read8 a := by
  unfold State.write8 State.read8
  split <;> simp_all [Memory.read_write_same _ _ _ _ _ hm]

/-- A byte write keeps the canonical form. -/
theorem State.write8_wf (a : Word) (v : Byte) (hm : s.mem.wf = true) : (s.write8 a v).mem.wf = true := by
  unfold State.write8
  split
  · next h => exact Memory.canonical_write _ _ _ _ _ hm (Nat.zero_le _) (targetOf_store h)
  all_goals exact hm

/-! What a memory operation leaves alone -/

/-- From `s` to `t` only the store, the countdown and the free-value counter may have changed. -/
structure MemOnly (s t : State) : Prop where
  regs : t.regs = s.regs
  pc : t.pc = s.pc
  sp : t.sp = s.sp
  flags : t.flags = s.flags
  halted : t.halted = s.halted
  displayRequested : t.displayRequested = s.displayRequested
  waitingForInput : t.waitingForInput = s.waitingForInput
  cycles : t.cycles = s.cycles
  console : t.console = s.console
  sysTimer : t.sysTimer = s.sysTimer
  keyCode : t.keyCode = s.keyCode
  keyState : t.keyState = s.keyState
  params : t.params = s.params

theorem MemOnly.refl : MemOnly s s := by constructor <;> rfl

theorem MemOnly.trans {s t u : State} (h1 : MemOnly s t) (h2 : MemOnly t u) : MemOnly s u where
  regs := h2.regs.trans h1.regs
  pc := h2.pc.trans h1.pc
  sp := h2.sp.trans h1.sp
  flags := h2.flags.trans h1.flags
  halted := h2.halted.trans h1.halted
  displayRequested := h2.displayRequested.trans h1.displayRequested
  waitingForInput := h2.waitingForInput.trans h1.waitingForInput
  cycles := h2.cycles.trans h1.cycles
  console := h2.console.trans h1.console
  sysTimer := h2.sysTimer.trans h1.sysTimer
  keyCode := h2.keyCode.trans h1.keyCode
  keyState := h2.keyState.trans h1.keyState
  params := h2.params.trans h1.params

theorem MemOnly.reg {s t : State} (h : MemOnly s t) (r : Reg) : t.reg r = s.reg r := by simp [State.reg, h.regs]

theorem MemOnly.write8 (a : Word) (v : Byte) : MemOnly s (s.write8 a v) := by constructor <;> simp

theorem MemOnly.write16 (a v : Word) : MemOnly s (s.write16 a v) :=
  (MemOnly.write8 s _ _).trans (MemOnly.write8 _ _ _)

/-- A push moves `sp` down by 2 and else only writes memory (R172). -/
theorem MemOnly.push16 (v : Word) : MemOnly (s.setSp (s.sp - 2)) (s.push16 v) := MemOnly.write16 _ _ _

theorem MemOnly.fill (n : Nat) (d : Word) (v : Byte) (s : State) : MemOnly s (State.fill n d v s) := by
  induction n generalizing d s with
  | zero => exact MemOnly.refl s
  | succ n ih => exact (MemOnly.write8 s d v).trans (ih _ _)

theorem MemOnly.copyAscending (n : Nat) (a d : Word) (s : State) : MemOnly s (State.copyAscending n a d s) := by
  induction n generalizing a d s with
  | zero => exact MemOnly.refl s
  | succ n ih => exact (MemOnly.write8 s d _).trans (ih _ _ _)

theorem MemOnly.freeOverlap (a : Word) (len n : Nat) (d : Word) (s : State) : MemOnly s (State.freeOverlap a len n d s) := by
  induction n generalizing d s with
  | zero => exact MemOnly.refl s
  | succ n ih =>
    refine MemOnly.trans ?_ (ih _ _)
    split <;> constructor <;> simp

theorem MemOnly.copyBlock (n : Nat) (a d : Word) (s : State) : MemOnly s (State.copyBlock n a d s) := by
  unfold State.copyBlock
  split
  · exact MemOnly.copyAscending _ _ _ _
  · exact (MemOnly.copyAscending _ _ _ _).trans (MemOnly.freeOverlap _ _ _ _ _)

/-! Every memory operation keeps the canonical form -/

theorem State.write16_wf (a v : Word) (hm : s.mem.wf = true) : (s.write16 a v).mem.wf = true :=
  State.write8_wf _ _ _ (State.write8_wf _ _ _ hm)

theorem State.push16_wf (v : Word) (hm : s.mem.wf = true) : (s.push16 v).mem.wf = true :=
  State.write16_wf _ _ _ hm

theorem State.fill_wf (n : Nat) (d : Word) (v : Byte) (s : State) (hm : s.mem.wf = true) :
    (State.fill n d v s).mem.wf = true := by
  induction n generalizing d s with
  | zero => exact hm
  | succ n ih => exact ih _ _ (State.write8_wf _ _ _ hm)

theorem State.copyAscending_wf (n : Nat) (a d : Word) (s : State) (hm : s.mem.wf = true) :
    (State.copyAscending n a d s).mem.wf = true := by
  induction n generalizing a d s with
  | zero => exact hm
  | succ n ih => exact ih _ _ _ (State.write8_wf _ _ _ hm)

theorem State.freeOverlap_wf (a : Word) (len n : Nat) (d : Word) (s : State) (hm : s.mem.wf = true) :
    (State.freeOverlap a len n d s).mem.wf = true := by
  induction n generalizing d s with
  | zero => exact hm
  | succ n ih =>
    refine ih _ _ ?_
    dsimp only
    split
    · exact State.write8_wf _ _ _ hm
    · exact hm

theorem State.copyBlock_wf (n : Nat) (a d : Word) (s : State) (hm : s.mem.wf = true) :
    (State.copyBlock n a d s).mem.wf = true := by
  unfold State.copyBlock
  split
  · exact State.copyAscending_wf _ _ _ _ hm
  · exact State.freeOverlap_wf _ _ _ _ _ (State.copyAscending_wf _ _ _ _ hm)

/-! The bytes a memory operation does not reach -/

/-- Outside the two bytes at `a` a word write leaves every byte alone (R60). -/
theorem State.read8_write16_other (a b v : Word) (h : 2 ≤ (b - a).toNat) : (s.write16 a v).read8 b = s.read8 b := by
  unfold State.write16
  rw [State.read8_write8_other _ _ _ _ (by intro e; subst e; simp at h),
    State.read8_write8_other _ _ _ _ (by intro e; subst e; simp at h)]

/-- Outside the two bytes at the new `sp` a push leaves every byte alone (R172). -/
theorem State.read8_push16_other (b v : Word) (h : 2 ≤ (b - (s.sp - 2)).toNat) : (s.push16 v).read8 b = s.read8 b := by
  unfold State.push16
  rw [State.read8_write16_other _ _ _ _ h, State.setSp_read8]

theorem sub_succ_toNat (b d : Word) (n : Nat) (h : n + 1 ≤ (b - d).toNat) : n ≤ (b - (d + 1)).toNat := by
  bv_omega

/-- Outside its range a fill leaves every byte alone (R262). -/
theorem State.read8_fill_other (n : Nat) (d : Word) (v : Byte) (s : State) (b : Word) (h : n ≤ (b - d).toNat) :
    (State.fill n d v s).read8 b = s.read8 b := by
  induction n generalizing d s with
  | zero => rfl
  | succ n ih =>
    unfold State.fill
    rw [ih _ _ (sub_succ_toNat b d n h), State.read8_write8_other]
    intro e
    subst e
    simp at h

/-- Outside its destination a copy leaves every byte alone (R261). -/
theorem State.read8_copyAscending_other (n : Nat) (a d : Word) (s : State) (b : Word) (h : n ≤ (b - d).toNat) :
    (State.copyAscending n a d s).read8 b = s.read8 b := by
  induction n generalizing a d s with
  | zero => rfl
  | succ n ih =>
    unfold State.copyAscending
    rw [ih _ _ _ (sub_succ_toNat b d n h), State.read8_write8_other]
    intro e
    subst e
    simp at h

theorem State.read8_freeOverlap_other (a : Word) (len n : Nat) (d : Word) (s : State) (b : Word) (h : n ≤ (b - d).toNat) :
    (State.freeOverlap a len n d s).read8 b = s.read8 b := by
  induction n generalizing d s with
  | zero => rfl
  | succ n ih =>
    have hb : b ≠ d := by
      intro e
      subst e
      simp at h
    unfold State.freeOverlap
    rw [ih _ _ (sub_succ_toNat b d n h)]
    split
    · exact State.read8_write8_other _ _ _ _ hb
    · rfl

theorem State.read8_copyBlock_other (n : Nat) (a d : Word) (s : State) (b : Word) (h : n ≤ (b - d).toNat) :
    (State.copyBlock n a d s).read8 b = s.read8 b := by
  unfold State.copyBlock
  split
  · exact State.read8_copyAscending_other _ _ _ _ _ h
  · rw [State.read8_freeOverlap_other _ _ _ _ _ _ h, State.read8_copyAscending_other _ _ _ _ _ h]

end Sys2Proof.Machine
end

