-- ==== Sys2Proof/Laws/Loops.lean ====
section
/-! SUPPORT. The loops of byte accesses, one step at their end and all their bytes: PUTS' string, MEMCPY, MEMSET, and what the
host loads. -/

namespace Sys2Proof.Machine

theorem add_one_add_ofNat (a : Word) (i : Nat) : a + 1 + BitVec.ofNat 16 i = a + BitVec.ofNat 16 (i + 1) := by
  rw [BitVec.ofNat_add]
  bv_omega

/-- The string PUTS reads: the bytes before the first NUL, at most `m` (R147). -/
theorem State.readString_spec (s : State) (m : Nat) (a : Word) :
    ∃ n, n ≤ m ∧ (∀ i, i < n → s.read8 (a + BitVec.ofNat 16 i) ≠ 0) ∧ (n < m → s.read8 (a + BitVec.ofNat 16 n) = 0) ∧
      s.readString m a = (List.range n).map fun i => s.read8 (a + BitVec.ofNat 16 i) := by
  induction m generalizing a with
  | zero => exact ⟨0, by simp, by simp, by simp, rfl⟩
  | succ m ih =>
    by_cases h : s.read8 a = 0
    · exact ⟨0, by omega, by simp, by simpa using h, by simp [State.readString, h]⟩
    · obtain ⟨n, h1, h2, h3, h4⟩ := ih (a + 1)
      refine ⟨n + 1, by omega, ?_, ?_, ?_⟩
      · intro i hi
        cases i with
        | zero => simpa using h
        | succ i => rw [← add_one_add_ofNat]; exact h2 i (by omega)
      · intro hn
        rw [← add_one_add_ofNat]
        exact h3 (by omega)
      · rw [State.readString, if_neg h, h4, List.range_succ_eq_map, List.map_cons, List.map_map]
        rw [show (fun i => s.read8 (a + 1 + BitVec.ofNat 16 i)) = (fun i => s.read8 (a + BitVec.ofNat 16 i)) ∘ Nat.succ from
          funext fun i => by simp only [Function.comp]; rw [add_one_add_ofNat]]
        simp

/-- One more byte of the ascending loop (R261). -/
theorem State.copyAscending_succ (n : Nat) (a d : Word) (s : State) : State.copyAscending (n + 1) a d s =
    (State.copyAscending n a d s).write8 (d + BitVec.ofNat 16 n)
      ((State.copyAscending n a d s).read8 (a + BitVec.ofNat 16 n)) := by
  induction n generalizing a d s with
  | zero => simp [State.copyAscending]
  | succ n ih => rw [State.copyAscending, ih, State.copyAscending, add_one_add_ofNat, add_one_add_ofNat]

/-- One more byte of a fill (R262). -/
theorem State.fill_succ (n : Nat) (d : Word) (v : Byte) (s : State) : State.fill (n + 1) d v s =
    (State.fill n d v s).write8 (d + BitVec.ofNat 16 n) v := by
  induction n generalizing d s with
  | zero => simp [State.fill]
  | succ n ih => rw [State.fill, ih, State.fill, add_one_add_ofNat]

/-- The free values of an overlapping copy go to bytes of the source range only (R261). -/
theorem State.read8_freeOverlap_outside (src : Word) (len n : Nat) (d : Word) (s : State) (b : Word) (h : inRange src len b = false) :
    (State.freeOverlap src len n d s).read8 b = s.read8 b := by
  induction n generalizing d s with
  | zero => rfl
  | succ n ih =>
    unfold State.freeOverlap
    rw [ih]
    show (if inRange src len d then s.write8 d _ else s).read8 b = s.read8 b
    split
    · next h' => exact State.read8_write8_other _ _ _ _ (by rintro rfl; simp_all)
    · rfl

/-- What a store reads after bytes were loaded into it (R303). -/
theorem Memory.read_load (bs : List Byte) (k j hi : Nat) (m : Memory) (hm : m.canonical 0 hi = true) (hh : k + bs.length ≤ hi) :
    (Memory.load bs k m).read j = if k ≤ j ∧ j < k + bs.length then bs.getD (j - k) 0 else m.read j := by
  induction bs generalizing k m with
  | nil => rw [if_neg (by simp)]; rfl
  | cons b bs ih =>
    simp only [List.length_cons] at *
    rw [Memory.load, ih (k + 1) _ (Memory.canonical_write _ _ _ _ _ hm (by omega) (by omega)) (by omega)]
    by_cases e : j = k
    · subst e
      rw [if_neg (by omega), if_pos (by omega), Memory.read_write_same _ _ _ _ _ hm]
      simp
    · rw [Memory.read_write_other _ _ _ _ e]
      by_cases h : k + 1 ≤ j ∧ j < k + 1 + bs.length
      · rw [if_pos h, if_pos (by omega)]
        obtain ⟨q, rfl⟩ : ∃ q, j = k + 1 + q := ⟨j - (k + 1), by omega⟩
        rw [show k + 1 + q - (k + 1) = q by omega, show k + 1 + q - k = q + 1 by omega]
        simp
      · rw [if_neg h, if_neg (by omega)]

/-- Placing an instruction keeps the memory canonical. -/
theorem State.placeBytes_wf (bs : List Byte) (a : Word) (s : State) (hm : s.mem.wf = true) :
    (State.placeBytes bs a s).mem.wf = true := by
  induction bs generalizing a s with
  | nil => exact hm
  | cons b bs ih => exact ih _ _ (State.write8_wf _ _ _ hm)

end Sys2Proof.Machine
end

