-- ==== Sys2Proof/Laws/Operands.lean ====
section
/-! SUPPORT. The field lemmas of the operations several meanings share: one per field per operation. -/

namespace Sys2Proof.Machine

variable (s : State)

/-! `State.addInto` -/

@[simp] theorem State.addInto_pc (rd : Reg) (b : Word) : (s.addInto rd b).pc = s.pc := rfl
@[simp] theorem State.addInto_sp (rd : Reg) (b : Word) : (s.addInto rd b).sp = s.sp := rfl
@[simp] theorem State.addInto_flags (rd : Reg) (b : Word) : (s.addInto rd b).flags = addFlags (s.reg rd) b := rfl
@[simp] theorem State.addInto_halted (rd : Reg) (b : Word) : (s.addInto rd b).halted = s.halted := rfl
@[simp] theorem State.addInto_displayRequested (rd : Reg) (b : Word) : (s.addInto rd b).displayRequested = s.displayRequested := rfl
@[simp] theorem State.addInto_waitingForInput (rd : Reg) (b : Word) : (s.addInto rd b).waitingForInput = s.waitingForInput := rfl
@[simp] theorem State.addInto_cycles (rd : Reg) (b : Word) : (s.addInto rd b).cycles = s.cycles := rfl
@[simp] theorem State.addInto_console (rd : Reg) (b : Word) : (s.addInto rd b).console = s.console := rfl
@[simp] theorem State.addInto_mem (rd : Reg) (b : Word) : (s.addInto rd b).mem = s.mem := rfl
@[simp] theorem State.addInto_sysTimer (rd : Reg) (b : Word) : (s.addInto rd b).sysTimer = s.sysTimer := rfl
@[simp] theorem State.addInto_countdown (rd : Reg) (b : Word) : (s.addInto rd b).countdown = s.countdown := rfl
@[simp] theorem State.addInto_keyCode (rd : Reg) (b : Word) : (s.addInto rd b).keyCode = s.keyCode := rfl
@[simp] theorem State.addInto_keyState (rd : Reg) (b : Word) : (s.addInto rd b).keyState = s.keyState := rfl
@[simp] theorem State.addInto_params (rd : Reg) (b : Word) : (s.addInto rd b).params = s.params := rfl
@[simp] theorem State.addInto_freeCount (rd : Reg) (b : Word) : (s.addInto rd b).freeCount = s.freeCount := rfl
@[simp] theorem State.addInto_read8 (rd : Reg) (b : Word) (c : Word) : (s.addInto rd b).read8 c = s.read8 c := rfl
theorem State.addInto_reg (rd : Reg) (b : Word) (q : Reg) : (s.addInto rd b).reg q = if rd = q then s.reg rd + b else s.reg q :=
  State.reg_setReg s rd q _

/-! `State.subInto` -/

@[simp] theorem State.subInto_pc (rd : Reg) (a b : Word) : (s.subInto rd a b).pc = s.pc := rfl
@[simp] theorem State.subInto_sp (rd : Reg) (a b : Word) : (s.subInto rd a b).sp = s.sp := rfl
@[simp] theorem State.subInto_flags (rd : Reg) (a b : Word) : (s.subInto rd a b).flags = subFlags a b := rfl
@[simp] theorem State.subInto_halted (rd : Reg) (a b : Word) : (s.subInto rd a b).halted = s.halted := rfl
@[simp] theorem State.subInto_displayRequested (rd : Reg) (a b : Word) : (s.subInto rd a b).displayRequested = s.displayRequested := rfl
@[simp] theorem State.subInto_waitingForInput (rd : Reg) (a b : Word) : (s.subInto rd a b).waitingForInput = s.waitingForInput := rfl
@[simp] theorem State.subInto_cycles (rd : Reg) (a b : Word) : (s.subInto rd a b).cycles = s.cycles := rfl
@[simp] theorem State.subInto_console (rd : Reg) (a b : Word) : (s.subInto rd a b).console = s.console := rfl
@[simp] theorem State.subInto_mem (rd : Reg) (a b : Word) : (s.subInto rd a b).mem = s.mem := rfl
@[simp] theorem State.subInto_sysTimer (rd : Reg) (a b : Word) : (s.subInto rd a b).sysTimer = s.sysTimer := rfl
@[simp] theorem State.subInto_countdown (rd : Reg) (a b : Word) : (s.subInto rd a b).countdown = s.countdown := rfl
@[simp] theorem State.subInto_keyCode (rd : Reg) (a b : Word) : (s.subInto rd a b).keyCode = s.keyCode := rfl
@[simp] theorem State.subInto_keyState (rd : Reg) (a b : Word) : (s.subInto rd a b).keyState = s.keyState := rfl
@[simp] theorem State.subInto_params (rd : Reg) (a b : Word) : (s.subInto rd a b).params = s.params := rfl
@[simp] theorem State.subInto_freeCount (rd : Reg) (a b : Word) : (s.subInto rd a b).freeCount = s.freeCount := rfl
@[simp] theorem State.subInto_read8 (rd : Reg) (a b : Word) (c : Word) : (s.subInto rd a b).read8 c = s.read8 c := rfl
theorem State.subInto_reg (rd : Reg) (a b : Word) (q : Reg) : (s.subInto rd a b).reg q = if rd = q then a - b else s.reg q :=
  State.reg_setReg s rd q _

/-! `State.logicInto` -/

@[simp] theorem State.logicInto_pc (rd : Reg) (r : Word) : (s.logicInto rd r).pc = s.pc := rfl
@[simp] theorem State.logicInto_sp (rd : Reg) (r : Word) : (s.logicInto rd r).sp = s.sp := rfl
@[simp] theorem State.logicInto_flags (rd : Reg) (r : Word) : (s.logicInto rd r).flags = logicFlags r s.flags := rfl
@[simp] theorem State.logicInto_halted (rd : Reg) (r : Word) : (s.logicInto rd r).halted = s.halted := rfl
@[simp] theorem State.logicInto_displayRequested (rd : Reg) (r : Word) : (s.logicInto rd r).displayRequested = s.displayRequested := rfl
@[simp] theorem State.logicInto_waitingForInput (rd : Reg) (r : Word) : (s.logicInto rd r).waitingForInput = s.waitingForInput := rfl
@[simp] theorem State.logicInto_cycles (rd : Reg) (r : Word) : (s.logicInto rd r).cycles = s.cycles := rfl
@[simp] theorem State.logicInto_console (rd : Reg) (r : Word) : (s.logicInto rd r).console = s.console := rfl
@[simp] theorem State.logicInto_mem (rd : Reg) (r : Word) : (s.logicInto rd r).mem = s.mem := rfl
@[simp] theorem State.logicInto_sysTimer (rd : Reg) (r : Word) : (s.logicInto rd r).sysTimer = s.sysTimer := rfl
@[simp] theorem State.logicInto_countdown (rd : Reg) (r : Word) : (s.logicInto rd r).countdown = s.countdown := rfl
@[simp] theorem State.logicInto_keyCode (rd : Reg) (r : Word) : (s.logicInto rd r).keyCode = s.keyCode := rfl
@[simp] theorem State.logicInto_keyState (rd : Reg) (r : Word) : (s.logicInto rd r).keyState = s.keyState := rfl
@[simp] theorem State.logicInto_params (rd : Reg) (r : Word) : (s.logicInto rd r).params = s.params := rfl
@[simp] theorem State.logicInto_freeCount (rd : Reg) (r : Word) : (s.logicInto rd r).freeCount = s.freeCount := rfl
@[simp] theorem State.logicInto_read8 (rd : Reg) (r : Word) (c : Word) : (s.logicInto rd r).read8 c = s.read8 c := rfl
theorem State.logicInto_reg (rd : Reg) (r : Word) (q : Reg) : (s.logicInto rd r).reg q = if rd = q then r else s.reg q :=
  State.reg_setReg s rd q _

/-! `State.shiftInto` -/

@[simp] theorem State.shiftInto_pc (kind : ShiftKind) (rd : Reg) (d : Nat) : (s.shiftInto kind rd d).pc = s.pc := rfl
@[simp] theorem State.shiftInto_sp (kind : ShiftKind) (rd : Reg) (d : Nat) : (s.shiftInto kind rd d).sp = s.sp := rfl
@[simp] theorem State.shiftInto_flags (kind : ShiftKind) (rd : Reg) (d : Nat) : (s.shiftInto kind rd d).flags = shiftFlags kind (s.reg rd) d s.flags := rfl
@[simp] theorem State.shiftInto_halted (kind : ShiftKind) (rd : Reg) (d : Nat) : (s.shiftInto kind rd d).halted = s.halted := rfl
@[simp] theorem State.shiftInto_displayRequested (kind : ShiftKind) (rd : Reg) (d : Nat) : (s.shiftInto kind rd d).displayRequested = s.displayRequested := rfl
@[simp] theorem State.shiftInto_waitingForInput (kind : ShiftKind) (rd : Reg) (d : Nat) : (s.shiftInto kind rd d).waitingForInput = s.waitingForInput := rfl
@[simp] theorem State.shiftInto_cycles (kind : ShiftKind) (rd : Reg) (d : Nat) : (s.shiftInto kind rd d).cycles = s.cycles := rfl
@[simp] theorem State.shiftInto_console (kind : ShiftKind) (rd : Reg) (d : Nat) : (s.shiftInto kind rd d).console = s.console := rfl
@[simp] theorem State.shiftInto_mem (kind : ShiftKind) (rd : Reg) (d : Nat) : (s.shiftInto kind rd d).mem = s.mem := rfl
@[simp] theorem State.shiftInto_sysTimer (kind : ShiftKind) (rd : Reg) (d : Nat) : (s.shiftInto kind rd d).sysTimer = s.sysTimer := rfl
@[simp] theorem State.shiftInto_countdown (kind : ShiftKind) (rd : Reg) (d : Nat) : (s.shiftInto kind rd d).countdown = s.countdown := rfl
@[simp] theorem State.shiftInto_keyCode (kind : ShiftKind) (rd : Reg) (d : Nat) : (s.shiftInto kind rd d).keyCode = s.keyCode := rfl
@[simp] theorem State.shiftInto_keyState (kind : ShiftKind) (rd : Reg) (d : Nat) : (s.shiftInto kind rd d).keyState = s.keyState := rfl
@[simp] theorem State.shiftInto_params (kind : ShiftKind) (rd : Reg) (d : Nat) : (s.shiftInto kind rd d).params = s.params := rfl
@[simp] theorem State.shiftInto_freeCount (kind : ShiftKind) (rd : Reg) (d : Nat) : (s.shiftInto kind rd d).freeCount = s.freeCount := rfl
@[simp] theorem State.shiftInto_read8 (kind : ShiftKind) (rd : Reg) (d : Nat) (c : Word) : (s.shiftInto kind rd d).read8 c = s.read8 c := rfl
theorem State.shiftInto_reg (kind : ShiftKind) (rd : Reg) (d : Nat) (q : Reg) : (s.shiftInto kind rd d).reg q = if rd = q then shiftResult kind (s.reg rd) d else s.reg q :=
  State.reg_setReg s rd q _

/-! `State.branchIf` -/

@[simp] theorem State.branchIf_regs (k : Cond) (a : Word) : (s.branchIf k a).regs = s.regs := by
  unfold State.branchIf; split <;> rfl
@[simp] theorem State.branchIf_pc (k : Cond) (a : Word) : (s.branchIf k a).pc = if condHolds k s.flags then a else s.pc := by
  unfold State.branchIf; split <;> rfl
@[simp] theorem State.branchIf_sp (k : Cond) (a : Word) : (s.branchIf k a).sp = s.sp := by
  unfold State.branchIf; split <;> rfl
@[simp] theorem State.branchIf_flags (k : Cond) (a : Word) : (s.branchIf k a).flags = s.flags := by
  unfold State.branchIf; split <;> rfl
@[simp] theorem State.branchIf_halted (k : Cond) (a : Word) : (s.branchIf k a).halted = s.halted := by
  unfold State.branchIf; split <;> rfl
@[simp] theorem State.branchIf_displayRequested (k : Cond) (a : Word) : (s.branchIf k a).displayRequested = s.displayRequested := by
  unfold State.branchIf; split <;> rfl
@[simp] theorem State.branchIf_waitingForInput (k : Cond) (a : Word) : (s.branchIf k a).waitingForInput = s.waitingForInput := by
  unfold State.branchIf; split <;> rfl
@[simp] theorem State.branchIf_cycles (k : Cond) (a : Word) : (s.branchIf k a).cycles = s.cycles := by
  unfold State.branchIf; split <;> rfl
@[simp] theorem State.branchIf_console (k : Cond) (a : Word) : (s.branchIf k a).console = s.console := by
  unfold State.branchIf; split <;> rfl
@[simp] theorem State.branchIf_mem (k : Cond) (a : Word) : (s.branchIf k a).mem = s.mem := by
  unfold State.branchIf; split <;> rfl
@[simp] theorem State.branchIf_sysTimer (k : Cond) (a : Word) : (s.branchIf k a).sysTimer = s.sysTimer := by
  unfold State.branchIf; split <;> rfl
@[simp] theorem State.branchIf_countdown (k : Cond) (a : Word) : (s.branchIf k a).countdown = s.countdown := by
  unfold State.branchIf; split <;> rfl
@[simp] theorem State.branchIf_keyCode (k : Cond) (a : Word) : (s.branchIf k a).keyCode = s.keyCode := by
  unfold State.branchIf; split <;> rfl
@[simp] theorem State.branchIf_keyState (k : Cond) (a : Word) : (s.branchIf k a).keyState = s.keyState := by
  unfold State.branchIf; split <;> rfl
@[simp] theorem State.branchIf_params (k : Cond) (a : Word) : (s.branchIf k a).params = s.params := by
  unfold State.branchIf; split <;> rfl
@[simp] theorem State.branchIf_freeCount (k : Cond) (a : Word) : (s.branchIf k a).freeCount = s.freeCount := by
  unfold State.branchIf; split <;> rfl
@[simp] theorem State.branchIf_reg (k : Cond) (a : Word) (q : Reg) : (s.branchIf k a).reg q = s.reg q := by
  unfold State.branchIf; split <;> rfl
@[simp] theorem State.branchIf_read8 (k : Cond) (a b : Word) : (s.branchIf k a).read8 b = s.read8 b := by
  unfold State.branchIf; split <;> rfl

end Sys2Proof.Machine
end

