-- ==== Sys2Proof/Tests/Slice0.lean ====
section
/-! SUPPORT. Small tests. Every expected value is an example or a corner case of the rule named, or is worked out by hand from it;
then, for each statement with hypotheses, a state that meets them. -/

namespace Sys2Proof.Tests

open Sys2Proof.Machine

/-! Well-formed terms -/

/-- A defined opcode is not unknown (R93). -/
theorem test_wellformed_refuses_defined_opcode : (Instr.unknown 0x00).wellFormed = false := by decide
theorem test_wellformed_refuses_last_defined_opcode : (Instr.unknown 0x71).wellFormed = false := by decide
theorem test_wellformed_accepts_unknown_opcode : (Instr.unknown 0x72).wellFormed = true := by decide

/-- R93: 192 opcode values are unknown. -/
theorem test_unknown_opcode_count :
    ((List.range 64).countP fun n => isUnknownOpcode (BitVec.ofNat 8 n)) = 24 ∧
    ((List.range 64).countP fun n => isUnknownOpcode (BitVec.ofNat 8 (64 + n))) = 40 ∧
    ∀ op : Byte, 128 ≤ op.toNat → isUnknownOpcode op = true := by
  decide

/-! Decoding: words written out from the formats of R89 and the opcodes of R92 -/

/-- The instruction of a list of bytes that is exactly one instruction. -/
def decoded (bytes : List Byte) : Option Instr :=
  match decode bytes with
  | .ok (i, []) => some i
  | _ => none

theorem test_decode_system :
    decoded [0x00] = some (.nop) ∧
    decoded [0x01] = some (.halt) ∧
    decoded [0x02] = some (.display) ∧
    decoded [0x03] = some (.ret) ∧
    decoded [0x04] = some (.pushf) ∧
    decoded [0x05] = some (.popf) ∧
    decoded [0x0A] = some (.unknown 0x0A) ∧
    decoded [0xFF] = some (.unknown 0xFF) := by
  decide

theorem test_decode_console :
    decoded [0x06, 0b00000100] = some (.putc 1) ∧
    decoded [0x07, 0b00001000] = some (.puts 2) ∧
    decoded [0x08, 0b00000000] = some (.puti 0) ∧
    decoded [0x09, 0b11111111] = some (.putx 7) := by
  decide

theorem test_decode_data_movement :
    decoded [0x10, 0b00101100] = some (.mov 1 3) ∧
    decoded [0x11, 0b00000000, 0x34, 0x12] = some (.movi 0 0x1234) ∧
    decoded [0x12, 0b00000100] = some (.load 0 1) ∧
    decoded [0x13, 0b11000100] = some (.loadb 6 1) ∧
    decoded [0x14, 0b11101000] = some (.store 7 2) ∧
    decoded [0x15, 0b00000100] = some (.storeb 0 1) ∧
    decoded [0x16, 0b00000100] = some (.push 1) ∧
    decoded [0x17, 0b01100000] = some (.pop 3) := by
  decide

theorem test_decode_arithmetic :
    decoded [0x20, 0b00101000] = some (.add 1 2) ∧
    decoded [0x21, 0b01000000, 0xFF] = some (.addi 2 0xFF) ∧
    decoded [0x22, 0b00000100] = some (.sub 0 1) ∧
    decoded [0x23, 0b01100000, 0x01] = some (.subi 3 1) ∧
    decoded [0x24, 0b01001100] = some (.mul 2 3) ∧
    decoded [0x25, 0b01001100] = some (.div 2 3) ∧
    decoded [0x26, 0b10000000] = some (.inc 4) ∧
    decoded [0x27, 0b10100000] = some (.dec 5) ∧
    decoded [0x28, 0b11000000] = some (.neg 6) := by
  decide

theorem test_decode_bitwise :
    decoded [0x30, 0b00101000] = some (.and 1 2) ∧
    decoded [0x31, 0b00000000, 0x0F] = some (.andi 0 0x0F) ∧
    decoded [0x32, 0b00101000] = some (.or 1 2) ∧
    decoded [0x33, 0b00000000, 0x80] = some (.ori 0 0x80) ∧
    decoded [0x34, 0b01101100] = some (.xor 3 3) ∧
    decoded [0x35, 0b00000000, 0xFF] = some (.xori 0 0xFF) ∧
    decoded [0x36, 0b01000000] = some (.not 2 0) := by
  decide

theorem test_decode_shifts :
    decoded [0x37, 0b00101000] = some (.shl 1 2) ∧
    decoded [0x38, 0b00101000] = some (.shr 1 2) ∧
    decoded [0x39, 0b00101000] = some (.sar 1 2) ∧
    decoded [0x3A, 0b01110100] = some (.shli 3 5) ∧
    decoded [0x3B, 0b01110000] = some (.shri 3 4) ∧
    decoded [0x3C, 0b01111100] = some (.sari 3 7) := by
  decide

theorem test_decode_compare :
    decoded [0x40, 0b00000100] = some (.cmp 0 1) ∧
    decoded [0x41, 0b01000000, 0x0A] = some (.cmpi 2 10) ∧
    decoded [0x42, 0b00100100] = some (.test 1 1) ∧
    decoded [0x43, 0b00000000, 0x01] = some (.testi 0 1) := by
  decide

theorem test_decode_control_transfer :
    decoded [0x50, 0x04, 0x01] = some (.jmp 0x0104) ∧
    decoded [0x51, 0b00010100] = some (.jmpr 5) ∧
    decoded [0x52, 0x04, 0x01] = some (.jz 0x0104) ∧
    decoded [0x53, 0x04, 0x01] = some (.jnz 0x0104) ∧
    decoded [0x54, 0x04, 0x01] = some (.jc 0x0104) ∧
    decoded [0x55, 0x04, 0x01] = some (.jnc 0x0104) ∧
    decoded [0x56, 0x04, 0x01] = some (.jn 0x0104) ∧
    decoded [0x57, 0x04, 0x01] = some (.jnn 0x0104) ∧
    decoded [0x58, 0x04, 0x01] = some (.jo 0x0104) ∧
    decoded [0x59, 0x04, 0x01] = some (.jno 0x0104) ∧
    decoded [0x5A, 0x04, 0x01] = some (.ja 0x0104) ∧
    decoded [0x5B, 0x04, 0x01] = some (.jbe 0x0104) ∧
    decoded [0x5C, 0x04, 0x01] = some (.jg 0x0104) ∧
    decoded [0x5D, 0x04, 0x01] = some (.jge 0x0104) ∧
    decoded [0x5E, 0x04, 0x01] = some (.jl 0x0104) ∧
    decoded [0x5F, 0x04, 0x01] = some (.jle 0x0104) ∧
    decoded [0x60, 0x04, 0x00] = some (.call 0x0004) ∧
    decoded [0x61, 0b00000100] = some (.callr 1) := by
  decide

theorem test_decode_block :
    decoded [0x70] = some (.memcpy) ∧
    decoded [0x71] = some (.memset) := by
  decide

/-- R91: set bits in ignored fields are not seen. -/
theorem test_decode_ignored_bits :
    decoded [0x06, 0b11100111] = some (.putc 1) ∧ decoded [0x17, 0b01111111] = some (.pop 3) ∧
    decoded [0x20, 0b00101011] = some (.add 1 2) ∧ decoded [0x21, 0b01011111, 0x05] = some (.addi 2 5) := by
  decide

/-- R95: a list that ends early is no instruction. -/
theorem test_decode_truncated : decode [0x11, 0x00, 0x34] = .error .truncated := by rfl

/-- The numbering of spec/opcode_table.json: the first byte is bits 7..0. -/
theorem test_decodeTableWord :
    decodeTableWord 16 0x2820 = some (.add 1 2) ∧ decodeTableWord 32 0x12340011 = some (.movi 0 0x1234) ∧
    decodeTableWord 24 0x010450 = some (.jmp 0x0104) ∧ decodeTableWord 8 0x71 = some .memset ∧
    decodeTableWord 8 0x11 = some (.movi 0 0) ∧ decodeTableWord 8 0xFF = some (.unknown 0xFF) := by
  decide

/-! Steps -/

/-- The four flags, in the order Z, C, N, V. -/
def fl (z c n v : Bool) : Flags := { z := z, c := c, n := n, v := v }

/-- The reset state at `pc` with the bytes of an instruction there, and some registers, bytes and flags. -/
def start (pc : Word) (bytes : List Byte) (regs : List (Reg × Word) := []) (mem : List (Word × List Byte) := [])
    (f : Flags := fl false false false false) : State :=
  let s := mem.foldl (fun s m => State.placeBytes m.2 m.1 s) State.reset
  let s := regs.foldl (fun s r => s.setReg r.1 r.2) s
  ((State.placeBytes bytes pc s).setPc pc).setFlags f

/-- The state after one step. -/
def after (s : State) : State :=
  match step s with
  | .next t => t
  | .fault _ => s
  | .refused _ => s

/-- The bytes on the console. -/
def printed (s : State) : List Byte := s.console.cbuf.slice 0 s.console.clen

/-- R130, example. -/
theorem test_nop :
    let t := after (start 0x0010 [0x00])
    t.pc = 0x0011 ∧ t.cycles = 1 := by
  decide

/-- R131, example. -/
theorem test_halt :
    let t := after (start 0x0003 [0x01])
    t.halted = true ∧ t.pc = 0x0004 ∧ t.cycles = 1 := by
  decide

/-- R132, example. -/
theorem test_display :
    let t := after (start 0 [0x02])
    t.displayRequested = true ∧ t.pc = 1 ∧ t.cycles = 1000 ∧ t.halted = false := by
  decide

/-- R133, example. -/
theorem test_unknown_opcode :
    let t := after (start 0x0100 [0xFF, 0x01])
    t.pc = 0x0101 ∧ t.cycles = 1 ∧ t.halted = false := by
  decide

/-- R146, example. -/
theorem test_putc :
    let t := after (start 0 [0x06, 0x04] [(1, 0x1241)])
    printed t = [0x41] ∧ t.cycles = 2 := by
  decide

/-- R146, corner case: a carriage return is dropped. -/
theorem test_putc_dropped :
    let t := after (start 0 [0x06, 0x04] [(1, 0x120D)])
    printed t = [] ∧ t.console.cupd = false ∧ t.cycles = 2 := by
  decide

/-- R147, example. -/
theorem test_puts :
    let t := after (start 0 [0x07, 0x08] [(2, 0x8000)] [(0x8000, [0x48, 0x69, 0x0A, 0x00])])
    printed t = [0x48, 0x69, 0x0A] ∧ t.cycles = 6 := by
  decide

/-- R148, example. -/
theorem test_puti :
    let t := after (start 0 [0x08, 0x00] [(0, 65535)])
    printed t = [0x36, 0x35, 0x35, 0x33, 0x35] ∧ t.cycles = 8 := by
  decide

/-- R148, corner case. -/
theorem test_puti_zero :
    let t := after (start 0 [0x08, 0x00])
    printed t = [0x30] := by
  decide

/-- R149, example. -/
theorem test_putx :
    let t := after (start 0 [0x09, 0x00] [(0, 0xABCD)])
    printed t = [0x30, 0x78, 0x41, 0x42, 0x43, 0x44] ∧ t.cycles = 6 := by
  decide

/-- R161, example. -/
theorem test_mov :
    let t := after (start 0 [0x10, 0x2C] [(3, 0xBEEF)])
    t.reg 1 = 0xBEEF ∧ t.reg 3 = 0xBEEF ∧ t.cycles = 2 := by
  decide

/-- R162, example. -/
theorem test_movi :
    let t := after (start 0 [0x11, 0x00, 0x00, 0x40])
    t.reg 0 = 0x4000 ∧ t.pc = 4 := by
  decide

/-- R163, example. -/
theorem test_load :
    let t := after (start 0 [0x12, 0x04] [(1, 0x8000)] [(0x8000, [0x34, 0x12])])
    t.reg 0 = 0x1234 ∧ t.cycles = 4 := by
  decide

/-- R164, example. -/
theorem test_loadb :
    let t := after (start 0 [0x13, 0x04] [(1, 0x8001)] [(0x8001, [0x92])])
    t.reg 0 = 0x0092 := by
  decide

/-- R165, example. -/
theorem test_store :
    let t := after (start 0 [0x14, 0xE8] [(7, 0x9000), (2, 0xA1B2)])
    t.read8 0x9000 = 0xB2 ∧ t.read8 0x9001 = 0xA1 := by
  decide

/-- R60: a word at 0xFFFF writes only the byte at 0x0000. -/
theorem test_store_wraps :
    let t := after (start 0x0100 [0x14, 0xE8] [(7, 0xFFFF), (2, 0xA1B2)])
    t.read8 0xFFFF = 0 ∧ t.read8 0x0000 = 0xA1 := by
  decide

/-- R166, example. -/
theorem test_storeb :
    let t := after (start 0 [0x15, 0x04] [(0, 0x4081), (1, 0x12E0)])
    t.read8 0x4081 = 0xE0 ∧ t.read8 0x4082 = 0 := by
  decide

/-- R167, example. -/
theorem test_push :
    let t := after (start 0 [0x16, 0x04] [(1, 0x1234)])
    t.sp = 0xFFED ∧ t.read8 0xFFED = 0x34 ∧ t.read8 0xFFEE = 0x12 := by
  decide

/-- R168, corner case: the empty stack at reset. -/
theorem test_pop_at_reset :
    let t := after ({ start 0 [0x17, 0x60] [] [(0xFFEF, [0x77])] with sysTimer := 0x0102 })
    t.reg 3 = 0x0277 ∧ t.sp = 0xFFF1 := by
  decide

/-- R169, example. -/
theorem test_pushf :
    let t := after (start 0 [0x04] [] [] (fl true false false true))
    t.read8 0xFFED = 0x09 ∧ t.read8 0xFFEE = 0 ∧ t.sp = 0xFFED := by
  decide

/-- R170, example. -/
theorem test_popf :
    let t := after ((start 0 [0x05] [] [(0x8000, [0xFE, 0xFF])]).setSp 0x8000)
    t.flags = fl false true true true ∧ t.queryFlags = 0x0E ∧ t.sp = 0x8002 := by
  decide

/-- R183, example. -/
theorem test_add :
    let t := after (start 0 [0x20, 0x28] [(1, 0x1234), (2, 0x0FFF)])
    t.reg 1 = 0x2233 ∧ t.flags = fl false false false false := by
  decide

/-- R183, corner case. -/
theorem test_add_overflow :
    let t := after (start 0 [0x20, 0x28] [(1, 0x7FFF), (2, 1)])
    t.reg 1 = 0x8000 ∧ t.flags = fl false false true true := by
  decide

/-- R184, corner case, both widenings. -/
theorem test_addi :
    let t := after (start 0 [0x21, 0x00, 0xFF] [(0, 1)])
    t.reg 0 = 0x0100 ∧ t.flags = fl false false false false := by
  decide

/-- R184, corner case under `IMM8_EXT = sign`. -/
theorem test_addi_sign :
    let t := after ({ start 0 [0x21, 0x00, 0xFF] [(0, 1)] with params := { defaultParams with imm8Ext := .sign } })
    t.reg 0 = 0 ∧ t.flags = fl true true false false := by
  decide

/-- R185, example (scenario 3). -/
theorem test_sub :
    let t := after (start 0 [0x22, 0x04] [(0, 0), (1, 1)])
    t.reg 0 = 0xFFFF ∧ t.flags = fl false true true false := by
  decide

/-- R185, corner case. -/
theorem test_sub_overflow :
    let t := after (start 0 [0x22, 0x04] [(0, 0x8000), (1, 1)])
    t.reg 0 = 0x7FFF ∧ t.flags = fl false false false true := by
  decide

/-- R186, example. -/
theorem test_subi :
    let t := after (start 0 [0x23, 0x60, 0x01] [(3, 1)])
    t.reg 3 = 0 ∧ t.flags = fl true false false false := by
  decide

/-- R187, example; C and V are kept. -/
theorem test_mul :
    let t := after (start 0 [0x24, 0x4C] [(2, 0x0123), (3, 0x0100)] [] (fl true true false true))
    t.reg 2 = 0x2300 ∧ t.flags = fl false true false true := by
  decide

/-- R188, example. -/
theorem test_div :
    let t := after (start 0 [0x25, 0x4C] [(2, 17), (3, 5)])
    t.reg 2 = 3 ∧ t.reg 0 = 2 ∧ t.flags = fl false false false false := by
  decide

/-- R188, division by zero. -/
theorem test_div_by_zero :
    let t := after (start 0 [0x25, 0x4C] [(2, 17)])
    t.reg 2 = 0xFFFF ∧ t.reg 0 = 17 ∧ t.flags = fl false false true false := by
  decide

/-- R189, corner case. -/
theorem test_inc :
    let t := after (start 0 [0x26, 0x80] [(4, 0xFFFF)])
    t.reg 4 = 0 ∧ t.flags = fl true true false false := by
  decide

/-- R190, corner case. -/
theorem test_dec :
    let t := after (start 0 [0x27, 0xA0])
    t.reg 5 = 0xFFFF ∧ t.flags = fl false true true false := by
  decide

/-- R191, corner case. -/
theorem test_neg :
    let t := after (start 0 [0x28, 0xC0] [(6, 0x8000)])
    t.reg 6 = 0x8000 ∧ t.flags = fl false true true true := by
  decide

/-- R202, example. -/
theorem test_and :
    let t := after (start 0 [0x30, 0x28] [(1, 0xF0F0), (2, 0x3C3C)] [] (fl true true false true))
    t.reg 1 = 0x3030 ∧ t.flags = fl false true false true := by
  decide

/-- R203, example. -/
theorem test_andi :
    let t := after (start 0 [0x31, 0x00, 0x0F] [(0, 0x1234)])
    t.reg 0 = 4 ∧ t.flags = fl false false false false := by
  decide

/-- R204, example. -/
theorem test_or :
    let t := after (start 0 [0x32, 0x28] [(1, 0xF0F0), (2, 0x0F0F)])
    t.reg 1 = 0xFFFF ∧ t.flags = fl false false true false := by
  decide

/-- R205, example. -/
theorem test_ori :
    let t := after (start 0 [0x33, 0x00, 0x80] [(0, 1)])
    t.reg 0 = 0x0081 := by
  decide

/-- R206, example. -/
theorem test_xor :
    let t := after (start 0 [0x34, 0x6C] [(3, 0x1234)])
    t.reg 3 = 0 ∧ t.flags = fl true false false false := by
  decide

/-- R207, example. -/
theorem test_xori :
    let t := after (start 0 [0x35, 0x00, 0xFF] [(0, 0xF0)])
    t.reg 0 = 0x000F := by
  decide

/-- R208, example. -/
theorem test_not :
    let t := after (start 0 [0x36, 0x40] [(2, 0x00FF)])
    t.reg 2 = 0xFF00 ∧ t.flags = fl false false true false := by
  decide

/-- R208 under `NOT_SRC = Rs`. -/
theorem test_not_rs :
    let t := after ({ start 0 [0x36, 0x40] [(2, 0x00FF), (0, 0xFFFF)] with params := { defaultParams with notSrc := .rs } })
    t.reg 2 = 0 ∧ t.flags = fl true false false false := by
  decide

/-- R210, example. -/
theorem test_shl :
    let t := after (start 0 [0x37, 0x28] [(1, 0x8001), (2, 1)])
    t.reg 1 = 2 ∧ t.flags = fl false true false false := by
  decide

/-- R210: a count of 16 is a distance of 0, which keeps C. -/
theorem test_shl_by_16 :
    let t := after (start 0 [0x37, 0x28] [(1, 0x8001), (2, 16)] [] (fl false true false false))
    t.reg 1 = 0x8001 ∧ t.flags = fl false true true false := by
  decide

/-- R211, example. -/
theorem test_shr :
    let t := after (start 0 [0x38, 0x28] [(1, 0x8001), (2, 1)])
    t.reg 1 = 0x4000 ∧ t.flags = fl false true false false := by
  decide

/-- R212, example. -/
theorem test_sar :
    let t := after (start 0 [0x39, 0x28] [(1, 0x8001), (2, 1)])
    t.reg 1 = 0xC000 ∧ t.flags = fl false true true false := by
  decide

/-- R213, example. -/
theorem test_shli :
    let t := after (start 0 [0x3A, 0x74] [(3, 0x0801)])
    t.reg 3 = 0x0020 ∧ t.flags = fl false true false false := by
  decide

/-- R214, example. -/
theorem test_shri :
    let t := after (start 0 [0x3B, 0x70] [(3, 0x1238)])
    t.reg 3 = 0x0123 ∧ t.flags = fl false true false false := by
  decide

/-- R215, example. -/
theorem test_sari :
    let t := after (start 0 [0x3C, 0x7C] [(3, 0x8000)])
    t.reg 3 = 0xFF00 ∧ t.flags = fl false false true false := by
  decide

/-- R226, example. -/
theorem test_cmp :
    let t := after (start 0 [0x40, 0x04] [(0, 3), (1, 5)])
    t.reg 0 = 3 ∧ t.flags = fl false true true false := by
  decide

/-- R227, example. -/
theorem test_cmpi :
    let t := after (start 0 [0x41, 0x40, 0x0A] [(2, 10)])
    t.reg 2 = 10 ∧ t.flags = fl true false false false := by
  decide

/-- R228, example. -/
theorem test_test :
    let t := after (start 0 [0x42, 0x24] [(1, 0x8000)] [] (fl true true false true))
    t.reg 1 = 0x8000 ∧ t.flags = fl false true true true := by
  decide

/-- R229, example. -/
theorem test_testi :
    let t := after (start 0 [0x43, 0x00, 0x01] [(0, 0x41)])
    t.reg 0 = 0x41 ∧ t.flags = fl false false false false := by
  decide

/-- R237, example. -/
theorem test_jmp :
    let t := after (start 0 [0x50, 0x04, 0x00])
    t.pc = 4 ∧ t.cycles = 3 := by
  decide

/-- R238, example. -/
theorem test_jmpr :
    let t := after (start 0 [0x51, 0x14] [(5, 0x1234)])
    t.pc = 0x1234 ∧ t.cycles = 2 := by
  decide

/-- R240, example. -/
theorem test_jz :
    let t := after (start 0x0020 [0x52, 0x00, 0x01] [] [] (fl true false false false))
    t.pc = 0x0100 ∧ t.cycles = 4 := by
  decide

/-- R241, example. -/
theorem test_jnz :
    let t := after (start 0x0020 [0x53, 0x00, 0x01] [] [] (fl true false false false))
    t.pc = 0x0023 ∧ t.cycles = 2 := by
  decide

/-- R242, example. -/
theorem test_jc :
    let t := after (start 0x0020 [0x54, 0x00, 0x01] [] [] (fl false true false false))
    t.pc = 0x0100 ∧ t.cycles = 4 := by
  decide

/-- R243, example. -/
theorem test_jnc :
    let t := after (start 0x0020 [0x55, 0x00, 0x01] [] [] (fl false true false false))
    t.pc = 0x0023 ∧ t.cycles = 2 := by
  decide

/-- R244, example. -/
theorem test_jn :
    let t := after (start 0x0020 [0x56, 0x00, 0x01] [] [] (fl false false false false))
    t.pc = 0x0023 ∧ t.cycles = 2 := by
  decide

/-- R245, example. -/
theorem test_jnn :
    let t := after (start 0x0020 [0x57, 0x00, 0x01] [] [] (fl false false false false))
    t.pc = 0x0100 ∧ t.cycles = 4 := by
  decide

/-- R246, example. -/
theorem test_jo :
    let t := after (start 0x0020 [0x58, 0x00, 0x01] [] [] (fl false false false true))
    t.pc = 0x0100 ∧ t.cycles = 4 := by
  decide

/-- R247, example. -/
theorem test_jno :
    let t := after (start 0x0020 [0x59, 0x00, 0x01] [] [] (fl false false false true))
    t.pc = 0x0023 ∧ t.cycles = 2 := by
  decide

/-- R248, example. -/
theorem test_ja :
    let t := after (start 0x0020 [0x5A, 0x00, 0x01] [] [] (fl false false false false))
    t.pc = 0x0100 ∧ t.cycles = 4 := by
  decide

/-- R249, example. -/
theorem test_jbe :
    let t := after (start 0x0020 [0x5B, 0x00, 0x01] [] [] (fl false false false false))
    t.pc = 0x0023 ∧ t.cycles = 2 := by
  decide

/-- R250, example. -/
theorem test_jg :
    let t := after (start 0x0020 [0x5C, 0x00, 0x01] [] [] (fl false false true true))
    t.pc = 0x0100 ∧ t.cycles = 4 := by
  decide

/-- R251, example. -/
theorem test_jge :
    let t := after (start 0x0020 [0x5D, 0x00, 0x01] [] [] (fl false false true false))
    t.pc = 0x0023 ∧ t.cycles = 2 := by
  decide

/-- R252, example. -/
theorem test_jl :
    let t := after (start 0x0020 [0x5E, 0x00, 0x01] [] [] (fl false false true false))
    t.pc = 0x0100 ∧ t.cycles = 4 := by
  decide

/-- R253, example. -/
theorem test_jle :
    let t := after (start 0x0020 [0x5F, 0x00, 0x01] [] [] (fl false false false false))
    t.pc = 0x0023 ∧ t.cycles = 2 := by
  decide

/-- R254, example. -/
theorem test_call :
    let t := after (start 0 [0x60, 0x04, 0x00])
    t.pc = 4 ∧ t.sp = 0xFFED ∧ t.read8 0xFFED = 3 ∧ t.read8 0xFFEE = 0 := by
  decide

/-- R255, example. -/
theorem test_callr :
    let t := after (start 0x0010 [0x61, 0x04] [(1, 0x0200)])
    t.pc = 0x0200 ∧ t.sp = 0xFFED ∧ t.read8 0xFFED = 0x12 := by
  decide

/-- R256 by hand: the word at `sp` becomes `pc`. -/
theorem test_ret :
    let t := after ((start 0 [0x03] [] [(0x9000, [0x34, 0x12])]).setSp 0x9000)
    t.pc = 0x1234 ∧ t.sp = 0x9002 ∧ t.cycles = 5 := by
  decide

/-- R261, example. -/
theorem test_memcpy :
    let t := after (start 0 [0x70] [(0, 0x8000), (1, 0x9000), (2, 3)] [(0x8000, [0x41, 0x42, 0x43])])
    t.read8 0x9000 = 0x41 ∧ t.read8 0x9002 = 0x43 ∧ t.reg 0 = 0x8003 ∧ t.reg 1 = 0x9003 ∧ t.reg 2 = 0 ∧ t.cycles = 8 := by
  decide

/-- R261, corner case: with `dst = src + 1` the first byte repeats. -/
theorem test_memcpy_overlap :
    let t := after (start 0 [0x70] [(0, 0x8000), (1, 0x8001), (2, 3)] [(0x8000, [0x41, 0x42, 0x43])])
    t.read8 0x8001 = 0x41 ∧ t.read8 0x8003 = 0x41 := by
  decide

/-- R262, scaled down from scenario 1. -/
theorem test_memset :
    let t := after (start 0 [0x71] [(0, 0x4000), (1, 0x00E0), (2, 4)])
    t.read8 0x4000 = 0xE0 ∧ t.read8 0x4003 = 0xE0 ∧ t.read8 0x4004 = 0 ∧ t.reg 0 = 0x4004 ∧ t.reg 1 = 0xE0 ∧ t.cycles = 9 := by
  decide

/-- R262, corner case: the countdown takes the value in both bytes. -/
theorem test_memset_into_overlay :
    let t := after (start 0 [0x71] [(0, 0xFFEF), (1, 0x12AB), (2, 8)])
    t.countdown = 0xABAB ∧ t.read8 0xFFEF = 0xAB ∧ t.read8 0xFFF6 = 0 ∧ t.sysTimer = 0 := by
  decide

/-- R127: an instruction at 0xFFFF takes its next byte from 0x0000; the opcode there reads 0x00, a NOP (R73). -/
theorem test_fetch_wraps :
    let t := after (start 0xFFFF [0x01])
    t.pc = 0 ∧ t.halted = false := by
  decide

/-- R126: a halted machine does not step. -/
theorem test_halted_step : after { start 0 [0x26, 0x00] with halted := true } = { start 0 [0x26, 0x00] with halted := true } := by
  decide

/-- The placed instruction is the one the next step runs. -/
theorem test_withFetchWord :
    (after ((State.reset.setReg 2 5).withFetchWord 16 0x2820)).reg 1 = 5 ∧ (after (State.reset.withFetchWord 8 0x01)).halted = true ∧
    (after ({ State.reset with halted := true }.withFetchWord 32 0x12340011)).reg 0 = 0x1234 := by
  decide

/-! The host -/

/-- R280, scenario 9. -/
theorem test_tick_timers :
    let s := ({ State.reset with countdown := 100 }).tickTimers 50
    s.sysTimer = 50 ∧ s.countdown = 50 ∧ (s.tickTimers 60).sysTimer = 110 ∧ (s.tickTimers 60).countdown = 0 := by
  decide

/-- R281, scenario 10. -/
theorem test_set_key :
    let s := (State.reset.setKey 0x41 true).setKey 0x00 false
    s.read8 0xFFF4 = 0x41 ∧ s.read8 0xFFF5 = 0 ∧ (s.setKey 0x42 true).read8 0xFFF4 = 0x42 ∧ (s.setKey 0x42 true).read8 0xFFF5 = 1 := by
  decide

/-- R290: DISPLAY ends the call. -/
theorem test_host_step_display :
    let s := State.reset.loadProgram [0x00, 0x02, 0x01]
    ((s.hostStep 5000).map fun r => (r.2, r.1.displayRequested, r.1.halted, r.1.pc)) = some (1001, true, false, 2) :=
  State.hostStep_map_of_within 2 (by decide)

/-- R290: the instruction that sets `halted` is counted and ends the call. -/
theorem test_host_step_halt :
    (((start 0 [0x00, 0x01]).hostStep 9).map fun r => (r.2, r.1.halted)) = some (2, true) :=
  State.hostStep_map_of_within 3 (by decide)

/-- The cost table of R318 with 0 for NOP, and with a JZ that costs 7 when taken. -/
def otherCosts : Params :=
  { defaultParams with cycleCost := { defaultCycleCost with nop := 0, jz := { taken := 7, notTaken := 1 } } }

/-- R290 with a zero entry: the NOP uses no budget, so `step(1)` runs HALT too. -/
theorem test_host_step_zero_cost :
    ((({ start 0 [0x00, 0x01] with params := otherCosts } : State).hostStep 1).map fun r => (r.2, r.1.halted)) = some (1, true) :=
  State.hostStep_map_of_within 3 (by decide)

/-- R7, R318: a table may cost two conditional jumps differently. -/
theorem test_jump_costs_differ :
    let s := { start 0 [] [] [] (fl true false false false) with params := otherCosts }
    instrCost (.jz 0) s = 7 ∧ instrCost (.jnn 0) s = 4 ∧ instrCost (.jnz 0) s = 2 := by
  decide

/-- R55 at the ends of each channel. -/
theorem test_rgb332 : rgb332 0xE0 = (255, 0, 0) ∧ rgb332 0xFF = (255, 255, 255) ∧ rgb332 0x25 = (36, 36, 85) := by decide

/-- R282 at the ends of each range. -/
theorem test_key_codes :
    keyCodeOf (.letter 25) = 0x5A ∧ keyCodeOf (.digit 9) = 0x39 ∧ keyCodeOf (.function 8) = 0x98 ∧ keyCodeOf .alt = 0x86 := by
  decide

/-! The assembler -/

/-- R96, R101: numbers, characters, strings, constants, labels, comments. -/
theorem test_assemble_directives :
    (assembleText ".equ K, 0b101 ; five\n.db 1, 'A', '\\n', \"hi\", K\n.dw x, -1\nx: .ds 1\n.org 0x0E\nhalt".toList).toOption =
      some [0x01, 0x41, 0x0A, 0x68, 0x69, 0x05, 0x0A, 0x00, 0xFF, 0xFF, 0x00, 0x00, 0x00, 0x00, 0x01] := by
  decide

/-- R100: an alias encodes as its target. -/
theorem test_assemble_aliases :
    (assembleText "JE 1\nJNE 1\nJB 1\nJAE 1\nJS 1\nJNS 1".toList).toOption =
      (assembleText "JZ 1\nJNZ 1\nJC 1\nJNC 1\nJN 1\nJNN 1".toList).toOption := by
  decide

/-- R99, R101, R102, R104: errors, with their lines and columns. -/
theorem test_assemble_errors :
    assembleText "NOP\n MOV R0, R8".toList = .error { kind := .invalidRegister, line := 2, column := 2 } ∧
    assembleText "CMPI R0, 256".toList = .error { kind := .numberOutOfRange, line := 1, column := 1 } ∧
    assembleText "a: NOP\na: NOP".toList = .error { kind := .duplicateLabel, line := 2, column := 1 } ∧
    assembleText ".org 5\n.org 3".toList = .error { kind := .invalidDirective, line := 2, column := 1 } ∧
    assembleText ".db \"ab".toList = .error { kind := .unterminatedString, line := 1, column := 5 } := by
  decide

/-- R96, R102: the one statement after a label may be a label; both take the current address, and a second statement is an error. -/
theorem test_assemble_label_after_label :
    (assembleText "NOP\na: b: ; both\n.dw a, b".toList).toOption = some [0x00, 0x01, 0x00, 0x01, 0x00] ∧
    assembleText "a: a:".toList = .error { kind := .duplicateLabel, line := 1, column := 1 } ∧
    assembleText "a: b: NOP".toList = .error { kind := .unexpectedToken, line := 1, column := 1 } := by
  decide

/-- The model's choices of notes/assumptions/19.md: forward references, a lone backslash, whitespace, the range of a word. -/
theorem test_assemble_choices :
    (assembleText ".dw x\nx: .db '\\'".toList).toOption = some [0x02, 0x00, 0x5C] ∧
    (assembleText ".dw -32768, 0xFFFF".toList).toOption = some [0x00, 0x80, 0xFF, 0xFF] ∧
    assembleText ".dw 0x10000".toList = .error { kind := .numberOutOfRange, line := 1, column := 1 } ∧
    assembleText ".equ k, x\nx: NOP".toList = .error { kind := .undefinedLabel, line := 1, column := 1 } ∧
    assembleText "\t NOP\r\n\x0c".toList = .error { kind := .unexpectedToken, line := 2, column := 1 } := by
  decide

/-! For each statement with hypotheses, a state that meets them -/

/-- A state that is not the reset state: bytes in the store, a console that a program has written. -/
def sample : State := (start 0x0100 [0x14, 0xE8] [(0, 0x8000), (7, 0x9000)] [(0xFFEF, [0x77])] (fl true false false true)).emitAll [0x41, 0x0D]

theorem sample_console : sample.console.Wf := Console.wf_emitAll _ _ (Console.wf_empty false)

/-- StepKeepsTheInvariant, HostCommandsKeepTheInvariant, HostStepReturns, ConsoleCommands, FilteredWriter: the invariant holds of a state
that steps. -/
theorem witness_invariant : sample.Inv ∧ ∃ t, step sample = .next t :=
  ⟨⟨by decide, sample_console, rfl, by decide⟩, _, rfl⟩

/-- StoresRun, PushesRun, CallsAndReturnRun, MemcpyRuns, MemsetRuns, ByteWrites, WordAccesses, LoadProgramCopies: canonical memory. -/
theorem witness_canonical_memory : sample.mem.wf = true ∧ sample.mem ≠ [] := by decide

/-- FilteredWriter: both clauses, at the edges of the printable range. -/
theorem witness_printable_edges :
    printable 0x1F = false ∧ printable 0x20 = true ∧ printable 0x7E = true ∧ printable 0x7F = false ∧ printable 0x0A = true ∧
    printable 0x09 = false ∧ printable 0x0B = false := by
  decide

/-- DecodeOfEncodeIsIdentity: both kinds of terms. -/
theorem witness_well_formed : (Instr.unknown 0xFF).wellFormed = true ∧ (Instr.movi 7 0xFFFF).wellFormed = true := by decide

/-- DecodingIsTotalByTheFirstByte, SystemInstructionsRun: the edges of the unknown opcodes of R93. -/
theorem witness_unknown_edges :
    ([0x0A, 0x0F, 0x18, 0x1F, 0x29, 0x2F, 0x3D, 0x3F, 0x44, 0x4F, 0x62, 0x6F, 0x72, 0xFF].all isUnknownOpcode) = true ∧
    ([0x09, 0x10, 0x17, 0x20, 0x28, 0x30, 0x3C, 0x40, 0x43, 0x50, 0x61, 0x70, 0x71].any isUnknownOpcode) = false := by
  decide

/-- IgnoredBitsHaveNoEffect: in each format two register bytes that differ and meet its clause; for NOT under both values of `NOT_SRC`. -/
theorem witness_ignored_bits :
    formatOf 0x70 = .O ∧ (formatOf 0x20 = .RR ∧ (0x28 : Byte).extractLsb' 5 3 = (0x2B : Byte).extractLsb' 5 3 ∧
      (0x28 : Byte).extractLsb' 2 3 = (0x2B : Byte).extractLsb' 2 3) ∧ formatOf 0x3A = .RSH ∧
    (formatOf 0x36 = .RD ∧ (0x40 : Byte).extractLsb' 5 3 = (0x5F : Byte).extractLsb' 5 3 ∧ State.reset.params.notSrc = .rd ∧
      (0x40 : Byte).extractLsb' 2 3 = (0x43 : Byte).extractLsb' 2 3) ∧
    (formatOf 0x06 = .RS ∧ (0x04 : Byte).extractLsb' 2 3 = (0xE7 : Byte).extractLsb' 2 3) ∧
    (formatOf 0x21 = .RI8 ∧ formatOf 0x11 = .RI16 ∧ (0x40 : Byte).extractLsb' 5 3 = (0x5F : Byte).extractLsb' 5 3) ∧
    formatOf 0x50 = .A16 := by
  decide

/-- StepRunsTheDecodedInstruction: a running state whose bytes at `pc` decode to a well-formed instruction. -/
theorem witness_step_runs :
    sample.halted = false ∧ decode [sample.read8 sample.pc, sample.read8 (sample.pc + 1), sample.read8 (sample.pc + 2),
      sample.read8 (sample.pc + 3)] = .ok (.store 7 2, [0x00, 0x00]) :=
  ⟨rfl, rfl⟩

/-- HaltedStepChangesNothing. -/
theorem witness_halted : (after (start 0 [0x01])).halted = true := by decide

/-- DefaultCycleCosts: the default table. -/
theorem witness_default_costs : sample.params.cycleCost = defaultCycleCost := rfl

/-- HostStepReturns: under the default table every instruction costs at least one cycle. -/
theorem witness_positive_costs : Claims.PositiveCosts sample := by
  intro i u h
  have hp : u.params.cycleCost = defaultCycleCost := by rw [h]; rfl
  cases i <;> simp only [instrCost, State.jccCost, jccEntry, hp, defaultCycleCost, defaultJccCost] <;> first | omega | (split <;> omega)

/-- HostStepStops, second clause: a pending request under `one`; a DISPLAY under `continueOn`. -/
theorem witness_host_step_stops :
    (let s := { start 0 [0x00] with displayRequested := true }
     s.halted = false ∧ s.waitingForInput = false ∧ (after s).displayRequested = true ∧ s.params.stepPendingDisplay = .one) ∧
    (let s := { start 0 [0x02] with params := { defaultParams with stepPendingDisplay := .continueOn } }
     s.halted = false ∧ s.waitingForInput = false ∧ (after s).displayRequested = true ∧ s.read8 s.pc = 0x02) := by
  decide

/-- HostStepFollowsTheLoop, first clause: a call that stops for the budget after a turn, and one that a DISPLAY ends. -/
theorem witness_host_step_loop :
    (((start 0 [0x00]).hostStep 1).map fun p => (p.1.pc, p.2)) = some (1, 1) ∧
    (((start 0 [0x00, 0x02]).hostStep 9).map fun p => (p.1.pc, p.2)) = some (2, 1001) :=
  ⟨State.hostStep_map_of_within 2 (by decide), State.hostStep_map_of_within 2 (by decide)⟩

/-- The state after reset, its `pc` at `w`, under a cost table with 0 for NOP: every byte of it is a NOP. -/
def allNops (w : Word) : State := { State.reset with params := otherCosts, pc := w }

theorem allNops_read8 (w a : Word) : (allNops w).read8 a = 0 := by
  unfold State.read8
  split <;> first | rfl | exact (by decide : highByte 0 = 0)

theorem allNops_turn (w : Word) : (allNops w).hostTurn 1 0 = .goesOn (allNops (w + 1)) 0 := by
  have hf : (allNops w).fetchInstr = (.nop, allNops (w + 1)) := by rw [State.fetchInstr_eq]; simp only [allNops_read8]; rfl
  have hs : step (allNops w) = .next (allNops (w + 1)) := by unfold step; rw [hf]; rfl
  have hc : (allNops w).stepCost = 0 := by unfold State.stepCost; rw [hf]; rfl
  unfold State.hostTurn
  rw [hs, hc]
  rfl

/-- HostStepFollowsTheLoop, second clause: the NOPs cost nothing, the program has no end, and the call has no result. -/
theorem witness_endless_call : (allNops 0).hostStep 1 = none := by
  refine Option.eq_none_iff_forall_ne_some.mpr fun p h => ?_
  obtain ⟨fuel, hf⟩ := State.hostStepLoop_eq_some_iff.mp h
  generalize (0 : Word) = w at hf
  induction fuel generalizing w with
  | zero => cases hf
  | succ fuel ih => rw [State.hostStepWithin, allNops_turn] at hf; exact ih _ hf

/-- The statements about every instruction that answers a next state: one that changes a register, the flags, the stack, the run control. -/
theorem witness_instructions_answer_next :
    (∃ t, exec (.movi 3 0x1234) sample = .next t ∧ t.reg 3 ≠ sample.reg 3) ∧ (∃ t, exec (.div 7 0) sample = .next t) ∧
    (∃ t, exec (.push 0) sample = .next t) ∧ (∃ t, exec .popf sample = .next t) ∧ (∃ t, exec .halt sample = .next t) ∧
    (∃ t, exec .memcpy sample = .next t) :=
  ⟨⟨_, rfl, by decide⟩, ⟨_, rfl⟩, ⟨_, rfl⟩, ⟨_, rfl⟩, ⟨_, rfl⟩, ⟨_, rfl⟩⟩

/-- ConsoleInstructionsRun, PUTS: a string that ends. -/
theorem witness_puts :
    let s := start 0 [] [] [(0x8000, [0x48, 0x69])]
    s.read8 0x8000 ≠ 0 ∧ s.read8 0x8001 ≠ 0 ∧ s.read8 0x8002 = 0 := by
  decide

/-- The two ends of `sp` in PushPopRoundTrip, PushfPopfRestoresTheFlags and CallThenReturn. -/
theorem witness_stack_round_trips :
    (let s := (sample.setSp 0x0002).setReg 1 0x1234
     2 ≤ s.sp.toNat ∧ s.sp.toNat ≤ 0xFFF0 ∧ s.mem.wf = true ∧ ∃ t u, exec (.push 1) s = .next t ∧ exec (.pop 1) t = .next u) ∧
    (let s := sample.setSp 0xFFF0
     2 ≤ s.sp.toNat ∧ s.sp.toNat ≤ 0xFFF0 ∧ s.mem.wf = true ∧ ∃ t v, exec .pushf s = .next t ∧ exec .popf t = .next v) ∧
    (let s := sample.setSp 0xFFF0
     s.mem.wf = true ∧ ∃ t v, exec (.call 0x2000) s = .next t ∧ exec .ret t = .next v) :=
  ⟨⟨by decide, by decide, by decide, _, _, rfl, rfl⟩, ⟨by decide, by decide, by decide, _, _, rfl, rfl⟩,
    ⟨by decide, _, _, rfl, rfl⟩⟩

/-- FlagPurity: one of the pairs, and both of its instructions answer. -/
theorem witness_flag_purity :
    (Instr.testi 3 0x80, Instr.andi 3 0x80) ∈ [(Instr.cmp 3 4, Instr.sub 3 4), (.cmpi 3 0x80, .subi 3 0x80), (.test 3 4, .and 3 4),
      (.testi 3 0x80, .andi 3 0x80)] ∧
    (∃ t, exec (.testi 3 0x80) sample = .next t) ∧ ∃ u, exec (.andi 3 0x80) sample = .next u :=
  ⟨by decide, ⟨_, rfl⟩, ⟨_, rfl⟩⟩

/-- DivideRuns: both kinds of divisor. ConditionsAfterCompare: a comparison that answers. -/
theorem witness_divide_and_compare : sample.reg 1 = 0 ∧ sample.reg 0 ≠ 0 ∧ ∃ t, exec (.cmp 0 7) sample = .next t :=
  ⟨by decide, by decide, _, rfl⟩

/-- MemcpyCopiesDisjointRanges: a destination that ends at the last store byte. MemcpyRuns: both values of `MEMCPY_OVERLAP`, and a byte of
the destination outside the source. -/
theorem witness_memcpy :
    (let s := ((sample.setReg 0 0x8000).setReg 1 0xFFEE).setReg 2 2
     s.mem.wf = true ∧ (s.reg 1).toNat + (s.reg 2).toNat ≤ 0xFFF0 ∧
     (∀ i j : Fin 2, s.reg 0 + BitVec.ofNat 16 i.val ≠ s.reg 1 + BitVec.ofNat 16 j.val) ∧ ∃ t, exec .memcpy s = .next t) ∧
    (∃ s : State, s.mem.wf = true ∧ s.params.memcpyOverlap = .unspecified) ∧ State.reset.params.memcpyOverlap = .ascending ∧
    inRange 0x8000 3 0x8003 = false ∧ inRange 0x8000 3 0x8002 = true :=
  ⟨⟨by decide, by decide, by decide, _, rfl⟩, ⟨{ sample with params := { defaultParams with memcpyOverlap := .unspecified } }, by decide, rfl⟩, rfl, by decide, by decide⟩

/-- ByteReads and ByteWrites at the edges of the overlay (R57, R59). -/
theorem witness_overlay_edges :
    (let s := { sample with sysTimer := 0x0102, countdown := 0x0304, keyCode := 0x05, keyState := 1 }
     [0xFFEF, 0xFFF0, 0xFFF1, 0xFFF2, 0xFFF3, 0xFFF4, 0xFFF5, 0xFFF6, 0xFFFF].map s.read8 = [0x77, 0x02, 0x01, 0x04, 0x03, 0x05, 0x01, 0, 0] ∧
     [0xFFEF, 0xFFF0, 0xFFF1, 0xFFF2, 0xFFF3, 0xFFF4, 0xFFF5, 0xFFF6, 0xFFFF].map (fun a => (s.write8 a 0x55).read8 a) =
       [0x55, 0x02, 0x01, 0x55, 0x55, 0x05, 0x01, 0, 0]) ∧
    Claims.Writable 0xFFEF ∧ Claims.Writable 0xFFF3 :=
  ⟨by decide, .inl (by decide), .inr (.inr rfl)⟩

/-- WordAccesses: a word both of whose bytes can be written, and one that straddles the store and the timer. -/
theorem witness_word_edges :
    Claims.Writable 0xFFF2 ∧ Claims.Writable (0xFFF2 + 1) ∧ (sample.write16 0xFFF2 0x1234).countdown = 0x1234 ∧
    (sample.write16 0xFFEF 0x1234).read16 0xFFEF = 0x0034 :=
  ⟨.inr (.inl rfl), .inr (.inr rfl), by decide, by decide⟩

/-- FramebufferAddresses: its first and last address. -/
theorem witness_framebuffer_edges : pixelAddr 0 0 = 0x4000 ∧ pixelAddr 127 127 = 0x7FFF ∧ pixelX 0x4081 = 1 ∧ pixelY 0x4081 = 1 := by decide

/-- LoadProgramCopies: the last byte that is copied and the first that is dropped. -/
theorem witness_load_program :
    16383 < (List.replicate 16385 (1 : Byte)).length ∧ 16384 ≤ (0x4000 : Word).toNat ∧ sample.mem.wf = true :=
  ⟨by rw [List.length_replicate]; omega, by decide, by decide⟩

/-- ResetCpuState: both values of `RESET_CPU_CONSOLE`. -/
theorem witness_reset_cpu :
    sample.params.resetCpuConsole = .kept ∧
    ({ sample with params := { defaultParams with resetCpuConsole := .cleared } }).params.resetCpuConsole = .cleared :=
  ⟨rfl, rfl⟩

/-- RegistersWrittenOnlyWhereNamed: a register that changes. -/
theorem witness_register_changes : ∃ t, exec (.div 7 0) sample = .next t ∧ t.reg 0 ≠ sample.reg 0 := ⟨_, rfl, by decide⟩

end Sys2Proof.Tests
end

/-! Family 00_scope.md: what no instruction writes, and the default cycle costs. -/

namespace Sys2Proof.Proofs
open Sys2Proof.Machine

/-! The fields that only the host writes -/

/-- From `s` to `t` the system timer, the key registers and the parameters stand as they were (R32, R65, R291). -/
structure HostFieldsKept (s t : State) : Prop where
  sysTimer : t.sysTimer = s.sysTimer
  keyCode : t.keyCode = s.keyCode
  keyState : t.keyState = s.keyState
  params : t.params = s.params

theorem HostFieldsKept.of_memOnly {s t : State} (h : MemOnly s t) : HostFieldsKept s t :=
  ⟨h.sysTimer, h.keyCode, h.keyState, h.params⟩

theorem HostFieldsKept.push16 (s : State) (v : Word) : HostFieldsKept s (s.push16 v) :=
  have h := MemOnly.push16 s v
  ⟨h.sysTimer, h.keyCode, h.keyState, h.params⟩

theorem HostFieldsKept.branchIf (s : State) (k : Cond) (a : Word) : HostFieldsKept s (s.branchIf k a) := by
  constructor <;> simp

theorem HostFieldsKept.setPc {s t : State} (h : HostFieldsKept s t) (a : Word) : HostFieldsKept s (t.setPc a) :=
  ⟨h.sysTimer, h.keyCode, h.keyState, h.params⟩

theorem HostFieldsKept.setReg {s t : State} (h : HostFieldsKept s t) (r : Reg) (v : Word) : HostFieldsKept s (t.setReg r v) :=
  ⟨h.sysTimer, h.keyCode, h.keyState, h.params⟩

theorem HostFieldsKept.charge {s t : State} (h : HostFieldsKept s t) (n : Nat) : HostFieldsKept s (t.charge n) :=
  ⟨h.sysTimer, h.keyCode, h.keyState, h.params⟩

/-- Every instruction retires with its own cost after an effect that keeps the host's fields. Only a store, a push and a
block operation reach memory, and through `write8`, which discards a byte for the system timer or the key registers (R59). -/
theorem exec_retires_keeping_hostFields (i : Instr) (s : State) :
    ∃ u, exec i s = retire (instrCost i s) u ∧ HostFieldsKept s u := by
  cases i with
  | store rd rs => exact ⟨_, rfl, .of_memOnly (.write16 s _ _)⟩
  | storeb rd rs => exact ⟨_, rfl, .of_memOnly (.write8 s _ _)⟩
  | push rs => exact ⟨_, rfl, .push16 s _⟩
  | pushf => exact ⟨_, rfl, .push16 s _⟩
  | call addr => exact ⟨_, rfl, (HostFieldsKept.push16 s _).setPc _⟩
  | callr rs => exact ⟨_, rfl, (HostFieldsKept.push16 s _).setPc _⟩
  | memcpy => exact ⟨_, rfl, (((HostFieldsKept.of_memOnly (.copyBlock _ _ _ s)).setReg _ _).setReg _ _).setReg _ _⟩
  | memset => exact ⟨_, rfl, ((HostFieldsKept.of_memOnly (.fill _ _ _ s)).setReg _ _).setReg _ _⟩
  | jz a | jnz a | jc a | jnc a | jn a | jnn a | jo a | jno a | ja a | jbe a | jg a | jge a | jl a | jle a =>
    exact ⟨_, rfl, .branchIf s _ a⟩
  | _ => -- what is left writes registers, flags, `pc`, `sp`, the console or the run control
    exact ⟨_, rfl, rfl, rfl, rfl, rfl⟩

/-- Settles O16: the effect keeps the four fields, and so does the charge of the cost. -/
theorem systemTimerKeysAndParametersKept : Obligations.SystemTimerKeysAndParametersKept := by
  intro i s t h
  obtain ⟨u, hexec, hkept⟩ := exec_retires_keeping_hostFields i s
  rw [hexec, retire_eq_next] at h
  subst h
  have hcharged := hkept.charge (instrCost i s)
  exact ⟨hcharged.sysTimer, hcharged.keyCode, hcharged.keyState, hcharged.params⟩

/-! The default cost table -/

@[simp] theorem jccEntry_defaultCycleCost (k : Cond) : jccEntry defaultCycleCost k = defaultJccCost := by
  cases k <;> rfl

/-- R320 under the default table: 4 for a jump that is taken, 2 for one that is not. -/
theorem jccCost_default {s : State} (h : s.params.cycleCost = defaultCycleCost) (k : Cond) :
    s.jccCost k = if condHolds k s.flags then 4 else 2 := by
  rw [State.jccCost, h, jccEntry_defaultCycleCost]
  rfl

/-- Settles O9: the rows of fixed cost and the variable terms are read off the table; each conditional jump is
`jccCost_default` at its condition. -/
theorem defaultCycleCosts : Obligations.DefaultCycleCosts := by
  refine ⟨rfl, fun s rd rs imm op dist w htable => ?_⟩
  simp only [instrCost, htable, defaultCycleCost, true_and, List.forall_mem_cons]
  have jump := jccCost_default htable
  exact ⟨jump .z, jump .nz, jump .c, jump .nc, jump .n, jump .nn, jump .o, jump .no, jump .a, jump .be, jump .g, jump .ge,
    jump .l, jump .le, List.forall_mem_nil _⟩

end Sys2Proof.Proofs

/-! Family 10_state.md: what each instruction may change, the invariant, and the stack. -/

namespace Sys2Proof.Proofs
open Sys2Proof.Machine

/-! The effect of an instruction before its cost is charged -/

/-- From `s` to `t` only what `w` names has changed, the cycle counter among what has not, and neither the canonical form of
the memory nor the soundness of the console is lost. -/
structure Effect (w : Touch) (s t : State) : Prop extends Frame w s t where
  cycles : t.cycles = s.cycles
  memory : s.mem.wf = true → t.mem.wf = true
  consoleWf : s.console.Wf → t.console.Wf

theorem Effect.refl (s : State) : Effect {} s s where
  regs _ _ := rfl
  flags _ := rfl
  pc _ := rfl
  sp _ := rfl
  halted _ := rfl
  display _ := rfl
  console _ := rfl
  waiting := rfl
  sysTimer := rfl
  keyCode := rfl
  keyState := rfl
  params := rfl
  bytes _ _ := rfl
  cycles := rfl
  memory h := h
  consoleWf h := h

theorem Effect.raiseHalted (s : State) : Effect { halted := true } s { s with halted := true } :=
  { Effect.refl s with halted := nofun }

theorem Effect.requestDisplay (s : State) : Effect { display := true } s { s with displayRequested := true } :=
  { Effect.refl s with display := nofun }

theorem Effect.emitAll (s : State) (bs : List Byte) : Effect { console := true } s (s.emitAll bs) :=
  { Effect.refl s with console := nofun, consoleWf := Console.wf_emitAll _ bs }

theorem Effect.setReg {w : Touch} {s t : State} (h : Effect w s t) (r : Reg) (v : Word) :
    Effect { w with regs := w.regs ++ [r] } s (t.setReg r v) :=
  { h with
    regs := fun q hq => by
      simp only [List.mem_append, List.mem_singleton, not_or] at hq
      rw [State.reg_setReg_other _ _ _ _ hq.2, h.regs q hq.1] }

theorem Effect.setFlags {w : Touch} {s t : State} (h : Effect w s t) (f : Flags) :
    Effect { w with flags := true } s (t.setFlags f) :=
  { h with flags := nofun }

theorem Effect.setPc {w : Touch} {s t : State} (h : Effect w s t) (a : Word) : Effect { w with pc := true } s (t.setPc a) :=
  { h with pc := nofun }

theorem Effect.setSp {w : Touch} {s t : State} (h : Effect w s t) (a : Word) : Effect { w with sp := true } s (t.setSp a) :=
  { h with sp := nofun }

theorem Effect.branchIf (s : State) (k : Cond) (a : Word) : Effect { pc := true } s (s.branchIf k a) := by
  unfold State.branchIf
  split
  · exact (Effect.refl s).setPc a
  · exact { Effect.refl s with pc := nofun }

/-- An operation that only writes memory, in the `n` bytes at `d` alone, and keeps it canonical. -/
theorem Effect.of_memOnly {s t : State} {d : Word} {n : Nat} (h : MemOnly s t)
    (hbytes : ∀ a, n ≤ (a - d).toNat → t.read8 a = s.read8 a) (hwf : s.mem.wf = true → t.mem.wf = true) :
    Effect { bytes := (d, n) } s t where
  regs r _ := h.reg r
  flags _ := h.flags
  pc _ := h.pc
  sp _ := h.sp
  halted _ := h.halted
  display _ := h.displayRequested
  console _ := h.console
  waiting := h.waitingForInput
  sysTimer := h.sysTimer
  keyCode := h.keyCode
  keyState := h.keyState
  params := h.params
  bytes := hbytes
  cycles := h.cycles
  memory := hwf
  consoleWf hc := h.console ▸ hc

theorem Effect.write8 (s : State) (a : Word) (v : Byte) : Effect { bytes := (a, 1) } s (s.write8 a v) :=
  .of_memOnly (.write8 s a v)
    (fun b hb => State.read8_write8_other s a b v (by rintro rfl; simp at hb))
    (State.write8_wf s a v)

theorem Effect.write16 (s : State) (a v : Word) : Effect { bytes := (a, 2) } s (s.write16 a v) :=
  .of_memOnly (.write16 s a v) (fun b => State.read8_write16_other s a b v) (State.write16_wf s a v)

/-- R172: a push is a word write at the lowered `sp`. -/
theorem Effect.push16 (s : State) (v : Word) : Effect { sp := true, bytes := (s.sp - 2, 2) } s (s.push16 v) :=
  { Effect.write16 (s.setSp (s.sp - 2)) (s.sp - 2) v with sp := nofun }

theorem Effect.copyBlock (s : State) (n : Nat) (src dst : Word) :
    Effect { bytes := (dst, n) } s (State.copyBlock n src dst s) :=
  .of_memOnly (.copyBlock n src dst s) (State.read8_copyBlock_other n src dst s) (State.copyBlock_wf n src dst s)

theorem Effect.fill (s : State) (n : Nat) (dst : Word) (v : Byte) :
    Effect { bytes := (dst, n) } s (State.fill n dst v s) :=
  .of_memOnly (.fill n dst v s) (State.read8_fill_other n dst v s) (State.fill_wf n dst v s)

/-- The invariant speaks only of what an effect keeps. -/
theorem Effect.keeps_inv {w : Touch} {s t : State} (h : Effect w s t) (hs : s.Inv) : t.Inv where
  mem := h.memory hs.mem
  console := h.consoleWf hs.console
  waiting := h.waiting.trans hs.waiting
  key := h.keyState ▸ hs.key

/-! Every instruction has its effect -/

/-- What an instruction that runs in `s` may change: the write set of its rule. -/
def touchOf (i : Instr) (s : State) : Touch :=
  match i with
  | .nop | .unknown _ => {}
  | .halt => { halted := true }
  | .display => { display := true }
  | .putc _ | .puts _ | .puti _ | .putx _ => { console := true }
  | .mov rd _ | .movi rd _ | .load rd _ | .loadb rd _ => { regs := [rd] }
  | .store rd _ => { bytes := (s.reg rd, 2) }
  | .storeb rd _ => { bytes := (s.reg rd, 1) }
  | .push _ | .pushf => { sp := true, bytes := (s.sp - 2, 2) }
  | .pop rd => { regs := [rd], sp := true }
  | .popf => { flags := true, sp := true }
  | .add rd _ | .addi rd _ | .sub rd _ | .subi rd _ | .mul rd _ | .inc rd | .dec rd | .neg rd
  | .and rd _ | .andi rd _ | .or rd _ | .ori rd _ | .xor rd _ | .xori rd _ | .not rd _
  | .shl rd _ | .shr rd _ | .sar rd _ | .shli rd _ | .shri rd _ | .sari rd _ => { regs := [rd], flags := true }
  | .div rd _ => { regs := [rd, 0], flags := true }
  | .cmp _ _ | .cmpi _ _ | .test _ _ | .testi _ _ => { flags := true }
  | .jmp _ | .jmpr _ | .jz _ | .jnz _ | .jc _ | .jnc _ | .jn _ | .jnn _ | .jo _ | .jno _
  | .ja _ | .jbe _ | .jg _ | .jge _ | .jl _ | .jle _ => { pc := true }
  | .call _ | .callr _ => { pc := true, sp := true, bytes := (s.sp - 2, 2) }
  | .ret => { pc := true, sp := true }
  | .memcpy => { regs := [0, 1, 2], bytes := (s.reg 1, (s.reg 2).toNat) }
  | .memset => { regs := [0, 2], bytes := (s.reg 0, (s.reg 2).toNat) }

/-- Every instruction retires with its own cost after an effect within its write set. -/
theorem exec_retires_with_effect (i : Instr) (s : State) :
    ∃ u, exec i s = retire (instrCost i s) u ∧ Effect (touchOf i s) s u := by
  have same := Effect.refl s
  cases i with
  | nop | unknown op => exact ⟨_, rfl, same⟩
  | halt => exact ⟨_, rfl, .raiseHalted s⟩
  | display => exact ⟨_, rfl, .requestDisplay s⟩
  | putc rs | puts rs | puti rs | putx rs => exact ⟨_, rfl, .emitAll s _⟩
  | mov rd x | movi rd x | load rd x | loadb rd x => exact ⟨_, rfl, same.setReg rd _⟩
  | store rd rs => exact ⟨_, rfl, .write16 s _ _⟩
  | storeb rd rs => exact ⟨_, rfl, .write8 s _ _⟩
  | push rs | pushf => exact ⟨_, rfl, .push16 s _⟩
  | pop rd => exact ⟨_, rfl, (same.setSp _).setReg rd _⟩
  | popf => exact ⟨_, rfl, (same.setSp _).setFlags _⟩
  | add rd x | addi rd x | sub rd x | subi rd x | mul rd x | inc rd | dec rd | neg rd
  | and rd x | andi rd x | or rd x | ori rd x | xor rd x | xori rd x | not rd x
  | shl rd x | shr rd x | sar rd x | shli rd x | shri rd x | sari rd x =>
    exact ⟨_, rfl, (same.setReg rd _).setFlags _⟩
  | div rd rs => exact ⟨_, rfl, ((same.setReg rd _).setReg 0 _).setFlags _⟩
  | cmp rd x | cmpi rd x | test rd x | testi rd x => exact ⟨_, rfl, same.setFlags _⟩
  | jmp a | jmpr a => exact ⟨_, rfl, same.setPc _⟩
  | jz a | jnz a | jc a | jnc a | jn a | jnn a | jo a | jno a | ja a | jbe a | jg a | jge a | jl a | jle a =>
    exact ⟨_, rfl, .branchIf s _ a⟩
  | call a | callr a => exact ⟨_, rfl, (Effect.push16 s _).setPc _⟩
  | ret => exact ⟨_, rfl, (same.setSp _).setPc _⟩
  | memcpy => exact ⟨_, rfl, (((Effect.copyBlock s _ _ _).setReg 0 _).setReg 1 _).setReg 2 _⟩
  | memset => exact ⟨_, rfl, ((Effect.fill s _ _ _).setReg 0 _).setReg 2 _⟩

theorem exec_effect {i : Instr} {s t : State} (h : exec i s = .next t) :
    ∃ u, t = u.charge (instrCost i s) ∧ Effect (touchOf i s) s u := by
  obtain ⟨u, hexec, heffect⟩ := exec_retires_with_effect i s
  rw [hexec, retire_eq_next] at h
  exact ⟨u, h, heffect⟩

/-- The frame of every instruction. -/
theorem exec_frame {i : Instr} {s t : State} (h : exec i s = .next t) : Frame (touchOf i s) s t := by
  obtain ⟨u, rfl, heffect⟩ := exec_effect h
  exact { heffect with }

theorem exec_cycles {i : Instr} {s t : State} (h : exec i s = .next t) :
    t.cycles = s.cycles + BitVec.ofNat 64 (instrCost i s) := by
  obtain ⟨u, rfl, heffect⟩ := exec_effect h
  rw [State.charge_cycles, heffect.cycles]

theorem exec_keeps_inv {i : Instr} {s t : State} (h : exec i s = .next t) (hs : s.Inv) : t.Inv := by
  obtain ⟨u, rfl, heffect⟩ := exec_effect h
  exact { heffect.keeps_inv hs with }

/-- An instruction runs as a statement `Runs` says once its bytes decode to it and its own result is shown: cost and frame
hold of every instruction. -/
theorem runs_of_exec {i : Instr} {s t : State} {bytes : List Byte} {post : State → Prop}
    (hdecode : decode bytes = .ok (i, [])) (h : exec i s = .next t) (hpost : post t) :
    Runs s i bytes (instrCost i s) (touchOf i s) post :=
  ⟨hdecode, t, h, exec_cycles h, exec_frame h, hpost⟩

/-! The invariant -/

theorem fetchInstr_keeps_inv {s : State} (hs : s.Inv) : s.fetchInstr.2.Inv := by
  rw [State.fetchInstr_eq]
  exact ((Effect.refl s).setPc _).keeps_inv hs

/-- Settles O11: a halted step changes nothing; a running one fetches, which moves `pc` alone, and executes. -/
theorem stepKeepsTheInvariant : Obligations.StepKeepsTheInvariant := by
  intro s t hs h
  unfold step at h
  split at h
  · cases h
    exact hs
  · exact exec_keeps_inv h (fetchInstr_keeps_inv hs)

theorem initial_inv (p : Params) : (State.initial p).Inv where
  mem := rfl
  console := Console.wf_empty false
  waiting := rfl
  key := Nat.zero_le 1

/-- Settles O10: both are an initial state, `init()` but for the count of free values, of which the invariant does not speak. -/
theorem resetSatisfiesTheInvariant : Obligations.ResetSatisfiesTheInvariant :=
  ⟨initial_inv defaultParams, fun s => { initial_inv s.params with }⟩

/-! Run control, `sp`, flags and registers -/

/-- Settles O15: the write sets of HALT and DISPLAY alone name the two fields, and no write set can name `waiting_for_input`. -/
theorem runControlOnlyByHaltAndDisplay : Obligations.RunControlOnlyByHaltAndDisplay := by
  intro i s t h
  have kept := exec_frame h
  cases i with
  | halt =>
    obtain rfl := (retire_eq_next _ _ _).mp h
    exact ⟨(Bool.or_true _).symm, (Bool.or_false _).symm, kept.waiting⟩
  | display =>
    obtain rfl := (retire_eq_next _ _ _).mp h
    exact ⟨(Bool.or_false _).symm, (Bool.or_true _).symm, kept.waiting⟩
  | _ => exact ⟨(kept.halted rfl).trans (Bool.or_false _).symm, (kept.display rfl).trans (Bool.or_false _).symm, kept.waiting⟩

@[simp] theorem push16_sp (s : State) (v : Word) : (s.push16 v).sp = s.sp - 2 := (MemOnly.push16 s v).sp

/-- Settles O17: the seven stack instructions by the stack operation each runs, the others by their frame. -/
theorem stackPointerOnlyByStackInstructions : Obligations.StackPointerOnlyByStackInstructions := by
  intro i s t h
  cases i with
  | push rs | pushf | call a | callr a =>
    obtain rfl := (retire_eq_next _ _ _).mp h
    exact push16_sp s _
  | pop rd | popf | ret =>
    obtain rfl := (retire_eq_next _ _ _).mp h
    rfl
  | _ => exact (exec_frame h).sp rfl

@[simp] theorem shiftFlags_v (kind : ShiftKind) (v : Word) (d : Nat) (f : Flags) : (shiftFlags kind v d f).v = f.v := by
  unfold shiftFlags
  dsimp only
  split <;> rfl

/-- Settles O18: `LogicFlags` keeps C and V, `Shift` keeps V, and outside the families that write flags the frame keeps all. -/
theorem flagsKeptByRule : Obligations.FlagsKeptByRule := by
  intro i s t h
  cases i with
  | add rd x | addi rd x | inc rd | sub rd x | subi rd x | dec rd | neg rd | cmp rd x | cmpi rd x | popf => trivial
  | mul rd x | div rd x | and rd x | andi rd x | or rd x | ori rd x | xor rd x | xori rd x | not rd x
  | test rd x | testi rd x =>
    obtain rfl := (retire_eq_next _ _ _).mp h
    exact ⟨rfl, rfl⟩
  | shl rd x | shr rd x | sar rd x | shli rd x | shri rd x | sari rd x =>
    obtain rfl := (retire_eq_next _ _ _).mp h
    exact shiftFlags_v _ _ _ _
  | _ => exact (exec_frame h).flags rfl

theorem mem_touchOf_regs {i : Instr} {s t : State} {r : Reg} (h : exec i s = .next t) (hr : t.reg r ≠ s.reg r) :
    r ∈ (touchOf i s).regs := by
  by_contra hnot
  exact hr ((exec_frame h).regs r hnot)

/-- Settles O19: a register that differs is in the instruction's write set. -/
theorem registersWrittenOnlyWhereNamed : Obligations.RegistersWrittenOnlyWhereNamed := by
  intro i s t r h hr
  have hmem := mem_touchOf_regs h hr
  cases i with
  | div rd rs | memcpy | memset => simpa [touchOf] using hmem
  | mov rd x | movi rd x | load rd x | loadb rd x | pop rd
  | add rd x | addi rd x | sub rd x | subi rd x | mul rd x | inc rd | dec rd | neg rd
  | and rd x | andi rd x | or rd x | ori rd x | xor rd x | xori rd x | not rd x
  | shl rd x | shr rd x | sar rd x | shli rd x | shri rd x | sari rd x => exact List.mem_singleton.mp hmem
  | _ => exact List.not_mem_nil hmem

/-! Bytes and words that were stored, in the terms of the statements -/

/-- The write map of the statements is that of the model (R52, R59). -/
theorem targetOf_writable (a : Word) :
    (targetOf a = .store ∨ targetOf a = .countdownLow ∨ targetOf a = .countdownHigh) ↔ Claims.Writable a := by
  unfold Claims.Writable targetOf
  split
  · next h => simp [h]
  · next h =>
    have hLow : a = 0xFFF2 ↔ a.toNat = 0xFFF2 := BitVec.toNat_eq
    have hHigh : a = 0xFFF3 ↔ a.toNat = 0xFFF3 := BitVec.toNat_eq
    rw [hLow, hHigh]
    split <;> simp_all

theorem byteStored_write8 {s : State} (a : Word) (v : Byte) (hm : s.mem.wf = true) :
    Claims.ByteStored s (s.write8 a v) a v := by
  unfold Claims.ByteStored
  rw [State.read8_write8_same s a v hm, ← targetOf_writable]
  exact ⟨fun hw => if_pos hw, fun hw => if_neg hw⟩

theorem wordStored_write16 {s : State} (a v : Word) (hm : s.mem.wf = true) :
    Claims.WordStored s (s.write16 a v) a v := by
  have hne : a ≠ a + 1 := by bv_omega
  have hlow := byteStored_write8 a (lowByte v) hm
  have hhigh := byteStored_write8 (a + 1) (highByte v) (State.write8_wf s a (lowByte v) hm)
  constructor
  · unfold Claims.ByteStored State.write16
    rwa [State.read8_write8_other _ _ _ _ hne]
  · unfold Claims.ByteStored at hhigh
    rwa [State.read8_write8_other _ _ _ _ hne.symm] at hhigh

theorem wordStored_push16 {s : State} (v : Word) (hm : s.mem.wf = true) :
    Claims.WordStored s (s.push16 v) (s.sp - 2) v :=
  wordStored_write16 (s := s.setSp (s.sp - 2)) _ _ hm

/-- A word stored where both bytes can be written is read back (R58, R60). -/
theorem read16_of_wordStored {s t : State} {a v : Word} (h : Claims.WordStored s t a v) (hlow : Claims.Writable a)
    (hhigh : Claims.Writable (a + 1)) : t.read16 a = v := by
  have hlowRead : t.read8 a = lowByte v := h.1.1 hlow
  have hhighRead : t.read8 (a + 1) = highByte v := h.2.1 hhigh
  rw [State.read16, hlowRead, hhighRead, wordOf_high_low]

/-- A pushed word is read back where both stack bytes are store bytes, `sp` in 0x0002..0xFFF0 (R172, R175). -/
theorem read16_push16 {s : State} (v : Word) (hm : s.mem.wf = true) (h1 : 2 ≤ s.sp.toNat) (h2 : s.sp.toNat ≤ 0xFFF0) :
    (s.push16 v).read16 (s.sp - 2) = v :=
  read16_of_wordStored (wordStored_push16 v hm) (.inl (by bv_omega)) (.inl (by bv_omega))

/-- The word of the statements is the word the machine reads (R58). -/
theorem wordAt_eq_read16 (s : State) (a : Word) : Claims.wordAt s a = s.read16 a := by
  apply BitVec.eq_of_toNat_eq
  rw [Claims.wordAt, State.read16, wordOf_toNat, BitVec.toNat_ofNat]
  omega

/-! The packed flags -/

theorem zext16_flagByte (f : Flags) : zext16 (flagByte f) = BitVec.ofNat 16 (Claims.flagNumber f) := by
  obtain ⟨z, c, n, v⟩ := f
  revert z c n v
  decide

/-- R26: unpacking undoes packing. -/
@[simp] theorem flagsOfByte_flagByte (f : Flags) : flagsOfByte (flagByte f) = f := by
  obtain ⟨z, c, n, v⟩ := f
  revert z c n v
  decide

theorem lowByte_getLsbD (w : Word) {i : Nat} (h : i < 8) : (lowByte w).getLsbD i = w.getLsbD i := by
  simp [lowByte, h]

/-! The stack instructions -/

theorem decode_push (rs : Reg) : decode [0x16, regByte 0 rs] = .ok (.push rs, []) :=
  congrArg (fun r => Except.ok (Instr.push r, [])) (rsField_regByte 0 rs)

theorem decode_pop (rd : Reg) : decode [0x17, regByte rd 0] = .ok (.pop rd, []) :=
  congrArg (fun r => Except.ok (Instr.pop r, [])) (rdField_regByte rd 0)

/-- Settles O28: both are `Push16`, of Rs and of the packed flags. -/
theorem pushesRun : Obligations.PushesRun := by
  intro s rs hm
  constructor
  · exact runs_of_exec (decode_push rs) rfl ⟨push16_sp s _, wordStored_push16 (s.reg rs) hm⟩
  · rw [← zext16_flagByte]
    exact runs_of_exec rfl rfl ⟨push16_sp s _, wordStored_push16 _ hm⟩

/-- Settles O29: both are `Pop16`, into Rd and into the flags. -/
theorem popsRun : Obligations.PopsRun := by
  intro s rd
  rw [wordAt_eq_read16]
  constructor
  · exact runs_of_exec (decode_pop rd) rfl ⟨State.reg_setReg_same _ rd _, rfl⟩
  · have bit {i : Nat} := lowByte_getLsbD (s.read16 s.sp) (i := i)
    exact runs_of_exec rfl rfl ⟨rfl, bit (by decide), bit (by decide), bit (by decide), bit (by decide)⟩

/-- Settles O31: POPF reads the word that PUSHF pushed, and unpacking it gives the flags of before. -/
theorem pushfPopfRestoresTheFlags : Obligations.PushfPopfRestoresTheFlags := by
  intro s t u v hm h1 h2 hpush husp hread hpop
  obtain rfl := (retire_eq_next _ _ _).mp hpush
  obtain rfl := (retire_eq_next _ _ _).mp hpop
  have hsp : u.sp = s.sp - 2 := husp.trans (push16_sp s _)
  have hword : u.read16 u.sp = zext16 (flagByte s.flags) := by
    rw [hsp, State.read16, hread, hread]
    exact read16_push16 _ hm h1 h2
  constructor
  · show flagsOfByte (lowByte (u.read16 u.sp)) = s.flags
    rw [hword, lowByte_zext16, flagsOfByte_flagByte]
  · show u.sp + 2 = s.sp
    rw [hsp, BitVec.sub_add_cancel]

end Sys2Proof.Proofs

/-! Family 20_memory.md: bytes, words, the framebuffer, and the instructions that move data. -/

namespace Sys2Proof.Proofs
open Sys2Proof.Machine

/-! Every instruction answers -/

theorem exec_answers_next (i : Instr) (s : State) : ∃ t, exec i s = .next t := by
  obtain ⟨u, hexec, -⟩ := exec_retires_with_effect i s
  exact ⟨u.charge (instrCost i s), hexec⟩

/-- Settles O7: every instruction ends in `retire`, and a step is an instruction or changes nothing. -/
theorem everyStepAnswersNext : Obligations.EveryStepAnswersNext := by
  refine ⟨exec_answers_next, fun s => ?_⟩
  unfold step
  split
  · exact ⟨s, rfl⟩
  · exact exec_answers_next _ _

/-! Bytes -/

theorem targetOf_of_ge {a : Word} (h : 0xFFF6 ≤ a.toNat) : targetOf a = .reserved := by
  unfold targetOf
  rw [if_neg (by omega)]
  split <;> first | rfl | omega

/-- Settles O49: `read8` computes at each device address; the reserved addresses and the store are ranges of the map. -/
theorem byteReads : Obligations.ByteReads := by
  intro s a
  refine ⟨?_, ?_, ?_, ?_, ?_, ?_, fun hreserved => ?_, fun hstore => ?_⟩
  iterate 6 (rintro rfl; rfl)
  · rw [State.read8, targetOf_of_ge hreserved]
  · rw [State.read8, targetOf_of_lt hstore]

/-- R59: a byte for a read-only or reserved address is discarded. -/
theorem write8_of_not_writable (s : State) {a : Word} (v : Byte) (h : ¬ Claims.Writable a) : s.write8 a v = s := by
  rw [← targetOf_writable] at h
  unfold State.write8
  split <;> simp_all

theorem write8_eq_update (s : State) (a : Word) (v : Byte) :
    ∃ m c, s.write8 a v = { s with mem := m, countdown := c } := by
  unfold State.write8
  split <;> exact ⟨_, _, rfl⟩

theorem countdown_write8_low (s : State) (v : Byte) :
    (s.write8 0xFFF2 v).countdown.toNat = s.countdown.toNat / 256 * 256 + v.toNat := by
  rw [← highByte_toNat]
  exact wordOf_toNat _ v

theorem countdown_write8_high (s : State) (v : Byte) :
    (s.write8 0xFFF3 v).countdown.toNat = v.toNat * 256 + s.countdown.toNat % 256 := by
  rw [← lowByte_toNat]
  exact wordOf_toNat v _

/-- Settles O50: beside the byte laws, a write is an update of the store and the countdown, and in the overlay it puts one
byte of the countdown together with the other. -/
theorem byteWrites : Obligations.ByteWrites := by
  intro s a v hm
  refine ⟨byteStored_write8 a v hm, fun b => State.read8_write8_other s a b v, ?_, ?_,
    write8_of_not_writable s v, ?_, State.write8_wf s a v hm⟩
  · rintro rfl
    exact countdown_write8_low s v
  · rintro rfl
    exact countdown_write8_high s v
  · obtain ⟨m, c, h⟩ := write8_eq_update s a v
    rw [h]

/-! Words -/

theorem read16_toNat (s : State) (a : Word) : (s.read16 a).toNat = (s.read8 a).toNat + 256 * (s.read8 (a + 1)).toNat := by
  rw [State.read16, wordOf_toNat]
  omega

theorem read8_write16_of_ne (s : State) {a b : Word} (v : Word) (hlow : b ≠ a) (hhigh : b ≠ a + 1) :
    (s.write16 a v).read8 b = s.read8 b := by
  rw [State.write16, State.read8_write8_other _ _ _ _ hhigh, State.read8_write8_other _ _ _ _ hlow]

theorem write16_eq_update (s : State) (a v : Word) :
    ∃ m c, s.write16 a v = { s with mem := m, countdown := c } := by
  obtain ⟨m, c, hlow⟩ := write8_eq_update s a (lowByte v)
  rw [State.write16, hlow]
  exact write8_eq_update _ (a + 1) (highByte v)

/-- Settles O51: a word access is two byte accesses, and the store is canonical between them. -/
theorem wordAccesses : Obligations.WordAccesses := by
  intro s a v hm
  have stored := wordStored_write16 a v hm
  refine ⟨read16_toNat s a, stored, fun b => read8_write16_of_ne s v, ?_, read16_of_wordStored stored⟩
  obtain ⟨m, c, h⟩ := write16_eq_update s a v
  rw [h]

/-! The framebuffer -/

theorem pixelAddr_toNat (x y : Fin 128) : (pixelAddr x y).toNat = 0x4000 + y.val * 128 + x.val := by
  rw [pixelAddr, BitVec.toNat_ofNat, framebufferBase]
  omega

/-- The place of an address in the framebuffer; it counts rows of 128 pixels (R54). -/
theorem sub_base_toNat {a : Word} (h : 0x4000 ≤ a.toNat) : (a - 0x4000).toNat = a.toNat - 0x4000 :=
  BitVec.toNat_sub_of_le h

theorem pixelX_toNat {a : Word} (h : 0x4000 ≤ a.toNat) : (pixelX a).toNat = (a.toNat - 0x4000) % 128 := by
  rw [pixelX, BitVec.extractLsb'_toNat, sub_base_toNat h, Nat.shiftRight_zero]

theorem pixelY_toNat {a : Word} (h : 0x4000 ≤ a.toNat) : (pixelY a).toNat = (a.toNat - 0x4000) / 128 % 128 := by
  rw [pixelY, BitVec.extractLsb'_toNat, sub_base_toNat h, Nat.shiftRight_eq_div_pow]

/-- Settles O52: column and row are remainder and quotient by 128, which determine the place and are determined by it. -/
theorem framebufferAddresses : Obligations.FramebufferAddresses := by
  constructor
  · intro x y
    have haddr := pixelAddr_toNat x y
    have hbase : 0x4000 ≤ (pixelAddr x y).toNat := by omega
    refine ⟨haddr, ?_, ?_⟩
    · rw [pixelX_toNat hbase]
      omega
    · rw [pixelY_toNat hbase]
      omega
  · intro a hlow hhigh
    apply BitVec.eq_of_toNat_eq
    rw [pixelAddr_toNat, BitVec.val_toFin, BitVec.val_toFin, pixelX_toNat hlow, pixelY_toNat hlow]
    omega

/-! Moves, loads and stores -/

/-- A two-register instruction is decoded from its opcode and the register byte (R88, R89). -/
theorem decode_registers {op : Byte} {make : Reg → Reg → Instr} (rd rs : Reg)
    (h : ∀ b1, decode [op, b1] = .ok (make (rdField b1) (rsField b1), [])) :
    decode [op, regByte rd rs] = .ok (make rd rs, []) := by
  rw [h, rdField_regByte, rsField_regByte]

theorem decode_movi (rd : Reg) (imm : Word) :
    decode [0x11, regByte rd 0, lowByte imm, highByte imm] = .ok (.movi rd imm, []) := by
  show Except.ok (Instr.movi (rdField (regByte rd 0)) (wordOf (highByte imm) (lowByte imm)), []) = _
  rw [rdField_regByte, wordOf_high_low]

theorem zext16_toNat (b : Byte) : (zext16 b).toNat = b.toNat := by
  rw [zext16, BitVec.toNat_setWidth]
  omega

/-- Settles O26: each writes Rd once, and the value is what the rule names. -/
theorem movesAndLoadsRun : Obligations.MovesAndLoadsRun := by
  intro s rd rs imm
  rw [wordAt_eq_read16]
  have written (v : Word) : (s.setReg rd v).reg rd = v := State.reg_setReg_same s rd v
  refine ⟨?_, ?_, ?_, ?_⟩
  · exact runs_of_exec (decode_registers rd rs fun _ => rfl) rfl (written (s.reg rs))
  · exact runs_of_exec (decode_movi rd imm) rfl (written imm)
  · exact runs_of_exec (decode_registers rd rs fun _ => rfl) rfl (written (s.read16 (s.reg rs)))
  · exact runs_of_exec (decode_registers rd rs fun _ => rfl) rfl ((congrArg BitVec.toNat (written _)).trans (zext16_toNat _))

/-- Settles O27: STORE is one word write at Rd, STOREB one byte write. -/
theorem storesRun : Obligations.StoresRun := by
  intro s rd rs hm
  constructor
  · exact runs_of_exec (decode_registers rd rs fun _ => rfl) rfl (wordStored_write16 (s.reg rd) (s.reg rs) hm)
  · exact runs_of_exec (decode_registers rd rs fun _ => rfl) rfl (byteStored_write8 (s.reg rd) (lowByte (s.reg rs)) hm)

/-! Courses of ascending byte writes (R261, R262) -/

/-- Step `i` of the course `u` stores the byte `v i` at `d + i` and changes no other byte. -/
structure StoreCourse (d : Word) (n : Nat) (v : Nat → Byte) (u : Nat → State) : Prop where
  stored : ∀ i, i < n → Claims.ByteStored (u i) (u (i + 1)) (d + BitVec.ofNat 16 i) (v i)
  others : ∀ i, i < n → ∀ b, b ≠ d + BitVec.ofNat 16 i → (u (i + 1)).read8 b = (u i).read8 b

theorem StoreCourse.of_write8 {d : Word} {n : Nat} {v : Nat → Byte} {u : Nat → State} (hwf : ∀ i, (u i).mem.wf = true)
    (hstep : ∀ i, u (i + 1) = (u i).write8 (d + BitVec.ofNat 16 i) (v i)) : StoreCourse d n v u where
  stored i _ := hstep i ▸ byteStored_write8 _ _ (hwf i)
  others i _ _ hb := hstep i ▸ State.read8_write8_other _ _ _ _ hb

/-- Between two points of a course a byte changes only where a step between them reaches it. -/
theorem StoreCourse.read8_eq {d : Word} {n : Nat} {v : Nat → Byte} {u : Nat → State} (h : StoreCourse d n v u) {j k : Nat}
    {b : Word} (hjk : j ≤ k) (hkn : k ≤ n) (hb : ∀ i, j ≤ i → i < k → b ≠ d + BitVec.ofNat 16 i) :
    (u k).read8 b = (u j).read8 b := by
  induction k, hjk using Nat.le_induction with
  | base => rfl
  | succ k hjk ih =>
    rw [h.others k hkn b (hb k hjk k.lt_succ_self)]
    exact ih (by omega) fun i hji hik => hb i hji (by omega)

theorem add_ofNat_ne {d : Word} {i j : Nat} (hi : i < 65536) (hj : j < 65536) (h : i ≠ j) :
    d + BitVec.ofNat 16 i ≠ d + BitVec.ofNat 16 j := by
  bv_omega

/-- A course that does not come round to an address again has stored each of its bytes at its end. -/
theorem StoreCourse.byteStored {d : Word} {n : Nat} {v : Nat → Byte} {u : Nat → State} (h : StoreCourse d n v u)
    (hn : n ≤ 65536) {i : Nat} (hi : i < n) : Claims.ByteStored (u 0) (u n) (d + BitVec.ofNat 16 i) (v i) := by
  have before : (u i).read8 (d + BitVec.ofNat 16 i) = (u 0).read8 (d + BitVec.ofNat 16 i) :=
    h.read8_eq i.zero_le hi.le fun j _ hj => add_ofNat_ne (by omega) (by omega) (by omega)
  have after : (u n).read8 (d + BitVec.ofNat 16 i) = (u (i + 1)).read8 (d + BitVec.ofNat 16 i) :=
    h.read8_eq hi le_rfl fun j hj hjn => add_ofNat_ne (by omega) (by omega) (by omega)
  unfold Claims.ByteStored
  rw [← before, after]
  exact h.stored i hi

/-! MEMSET -/

theorem storeCourse_fill {s : State} (n : Nat) (d : Word) (v : Byte) (hm : s.mem.wf = true) :
    StoreCourse d n (fun _ => v) fun i => State.fill i d v s :=
  .of_write8 (fun i => State.fill_wf i d v s hm) fun i => State.fill_succ i d v s

/-- Settles O48: the fill is a course of writes of the one byte. -/
theorem memsetRuns : Obligations.MemsetRuns := by
  intro s hm
  refine runs_of_exec rfl rfl ⟨?_, ?_, fun i hi => ?_⟩
  · simp [State.reg_setReg]
  · simp
  · exact (storeCourse_fill _ (s.reg 0) (lowByte (s.reg 1)) hm).byteStored (s.reg 2).isLt.le hi

/-! MEMCPY -/

theorem storeCourse_copyAscending {s : State} (n : Nat) (src dst : Word) (hm : s.mem.wf = true) :
    StoreCourse dst n (fun i => (State.copyAscending i src dst s).read8 (src + BitVec.ofNat 16 i))
      fun i => State.copyAscending i src dst s :=
  .of_write8 (fun i => State.copyAscending_wf i src dst s hm) fun i => State.copyAscending_succ i src dst s

theorem copyCourse_copyAscending {s : State} (n : Nat) (src dst : Word) (hm : s.mem.wf = true) :
    Claims.CopyCourse s src dst n fun i => State.copyAscending i src dst s :=
  have course := storeCourse_copyAscending n src dst hm
  ⟨rfl, fun i hi => ⟨course.stored i hi, course.others i hi⟩⟩

/-- The free values of `MEMCPY_OVERLAP = unspecified` reach only the bytes of both ranges (R261). -/
theorem read8_copyBlock {s : State} {n : Nat} {src dst b : Word}
    (h : s.params.memcpyOverlap = .ascending ∨ n ≤ (b - src).toNat ∨ n ≤ (b - dst).toNat) :
    (State.copyBlock n src dst s).read8 b = (State.copyAscending n src dst s).read8 b := by
  unfold State.copyBlock
  split
  · rfl
  · next hunspecified =>
    obtain hascending | hsrc | hdst := h
    · rw [hunspecified] at hascending
      cases hascending
    · exact State.read8_freeOverlap_outside _ _ _ _ _ _ (decide_eq_false hsrc.not_gt)
    · exact State.read8_freeOverlap_other _ _ _ _ _ _ hdst

/-- Settles O46: the course is the ascending loop, from which the free values depart in the bytes of both ranges only. -/
theorem memcpyRuns : Obligations.MemcpyRuns := by
  intro s hm
  refine ⟨_, copyCourse_copyAscending _ _ _ hm, runs_of_exec rfl rfl ⟨?_, ?_, ?_, fun b hb => read8_copyBlock hb⟩⟩
  · simp [State.reg_setReg]
  · simp [State.reg_setReg]
  · simp

/-- An address that is none of `d`, `d + 1`, … `d + n - 1` lies outside the range of `n` bytes at `d`. -/
theorem le_sub_toNat_of_ne {a d : Word} {n : Nat} (h : ∀ j, j < n → a ≠ d + BitVec.ofNat 16 j) : n ≤ (a - d).toNat := by
  by_contra hlt
  refine h (a - d).toNat (by omega) ?_
  rw [BitVec.ofNat_toNat, BitVec.setWidth_eq, BitVec.add_comm, BitVec.sub_add_cancel]

/-- A loop that writes to no address of the source copies the bytes of before. -/
theorem byteStored_copyAscending {s : State} {n : Nat} {src dst : Word} (hm : s.mem.wf = true) (hn : n ≤ 65536)
    (hapart : ∀ i j, i < n → j < n → src + BitVec.ofNat 16 i ≠ dst + BitVec.ofNat 16 j) {i : Nat} (hi : i < n) :
    Claims.ByteStored s (State.copyAscending n src dst s) (dst + BitVec.ofNat 16 i) (s.read8 (src + BitVec.ofNat 16 i)) := by
  have course := storeCourse_copyAscending n src dst hm
  have source : (State.copyAscending i src dst s).read8 (src + BitVec.ofNat 16 i) = s.read8 (src + BitVec.ofNat 16 i) :=
    course.read8_eq i.zero_le hi.le fun j _ hj => hapart i j hi (by omega)
  exact source ▸ course.byteStored hn hi

/-- Settles O47: no destination byte lies in the source range, so memory is as the ascending loop leaves it, and every
destination byte can be written. -/
theorem memcpyCopiesDisjointRanges : Obligations.MemcpyCopiesDisjointRanges := by
  intro s t hm hstore hapart h i hi
  obtain rfl := (retire_eq_next _ _ _).mp h
  have outside : (s.reg 2).toNat ≤ (s.reg 1 + BitVec.ofNat 16 i - s.reg 0).toNat :=
    le_sub_toNat_of_ne fun j hj => (hapart j i hj hi).symm
  have writable : Claims.Writable (s.reg 1 + BitVec.ofNat 16 i) := by
    left
    bv_omega
  calc (State.copyBlock (s.reg 2).toNat (s.reg 0) (s.reg 1) s).read8 (s.reg 1 + BitVec.ofNat 16 i)
    _ = (State.copyAscending (s.reg 2).toNat (s.reg 0) (s.reg 1) s).read8 (s.reg 1 + BitVec.ofNat 16 i) :=
      read8_copyBlock (.inr (.inl outside))
    _ = s.read8 (s.reg 0 + BitVec.ofNat 16 i) := (byteStored_copyAscending hm (s.reg 2).isLt.le hapart hi).1 writable

end Sys2Proof.Proofs

/-! Family 30_encoding.md: decode against encode, the length by the first byte, the ignored bits, and the system instructions. -/

namespace Sys2Proof.Proofs
open Sys2Proof.Machine

/-! Decoding what the encoder wrote, format by format -/

/-- The register byte is decoded to its two fields, whatever the format makes of them (R88, R90). -/
theorem decode_registerByte {op : Byte} {make : Reg → Reg → Instr} {tail rest : List Byte} (rd rs : Reg)
    (h : ∀ b1, decode (op :: b1 :: tail) = .ok (make (rdField b1) (rsField b1), rest)) :
    decode (op :: regByte rd rs :: tail) = .ok (make rd rs, rest) := by
  rw [h, rdField_regByte, rsField_regByte]

/-- A format that reads `rd` alone. -/
theorem decode_rdByte {op : Byte} {make : Reg → Instr} {tail rest : List Byte} (rd rs : Reg)
    (h : ∀ b1, decode (op :: b1 :: tail) = .ok (make (rdField b1), rest)) :
    decode (op :: regByte rd rs :: tail) = .ok (make rd, rest) :=
  decode_registerByte (make := fun rd _ => make rd) rd rs h

/-- A format that reads `rd` and an operand after the register byte. -/
theorem decode_rdByte_operand {α : Type} {op : Byte} {make : Reg → α → Instr} {tail rest : List Byte} (rd rs : Reg) (x : α)
    (h : ∀ b1, decode (op :: b1 :: tail) = .ok (make (rdField b1) x, rest)) :
    decode (op :: regByte rd rs :: tail) = .ok (make rd x, rest) :=
  decode_rdByte (make := (make · x)) rd rs h

/-- A format that reads `rs` alone. -/
theorem decode_rsByte {op : Byte} {make : Reg → Instr} {tail rest : List Byte} (rd rs : Reg)
    (h : ∀ b1, decode (op :: b1 :: tail) = .ok (make (rsField b1), rest)) :
    decode (op :: regByte rd rs :: tail) = .ok (make rs, rest) :=
  decode_registerByte (make := fun _ rs => make rs) rd rs h

/-- A 16-bit operand in the two bytes after the opcode is decoded low byte first (R87). -/
theorem decode_address {op : Byte} {make : Word → Instr} {rest : List Byte} (addr : Word)
    (h : ∀ lo hi, decode (op :: lo :: hi :: rest) = .ok (make (wordOf hi lo), rest)) :
    decode (op :: lowByte addr :: highByte addr :: rest) = .ok (make addr, rest) := by
  rw [h, wordOf_high_low]

/-- An unknown opcode is one byte long, whatever follows it (R93). -/
theorem decode_unknown (op : Byte) (rest : List Byte) (h : isUnknownOpcode op = true) :
    decode (op :: rest) = .ok (.unknown op, rest) := by
  simp [decode, Laws.formatOf_unknown op h, Format.length, decodeBytes_unknown op _ _ _ h]

/-- Settles O1: the decoder reads each format's bytes back, and an unknown opcode as itself. -/
theorem decodeOfEncodeIsIdentity : Obligations.DecodeOfEncodeIsIdentity := by
  intro i rest hi
  cases i with
  | nop | halt | display | ret | pushf | popf | memcpy | memset => rfl
  | mov rd rs | load rd rs | loadb rd rs | store rd rs | storeb rd rs | add rd rs | sub rd rs | mul rd rs | div rd rs
  | and rd rs | or rd rs | xor rd rs | not rd rs | shl rd rs | shr rd rs | sar rd rs | shli rd rs | shri rd rs | sari rd rs
  | cmp rd rs | test rd rs =>
    exact decode_registerByte rd rs fun _ => rfl
  | pop rd | inc rd | dec rd | neg rd => exact decode_rdByte rd 0 fun _ => rfl
  | addi rd imm | subi rd imm | andi rd imm | ori rd imm | xori rd imm | cmpi rd imm | testi rd imm =>
    exact decode_rdByte_operand rd 0 imm fun _ => rfl
  | putc rs | puts rs | puti rs | putx rs | push rs | jmpr rs | callr rs => exact decode_rsByte 0 rs fun _ => rfl
  | movi rd imm =>
    refine decode_rdByte_operand rd 0 imm fun b1 => ?_
    exact congrArg (fun w => Except.ok (Instr.movi (rdField b1) w, rest)) (wordOf_high_low imm)
  | jmp a | jz a | jnz a | jc a | jnc a | jn a | jnn a | jo a | jno a | ja a | jbe a | jg a | jge a | jl a | jle a | call a =>
    exact decode_address a fun _ _ => rfl
  | unknown op => exact decode_unknown op rest hi

/-! Decoding is total -/

/-- Four bytes are enough for every instruction (R86). -/
theorem decode_of_four (op b1 b2 b3 : Byte) (rest : List Byte) :
    decode (op :: b1 :: b2 :: b3 :: rest) =
      .ok (decodeBytes op b1 b2 b3, (op :: b1 :: b2 :: b3 :: rest).drop (formatOf op).length) := by
  obtain ⟨hpos, hmax⟩ := (formatOf op).length_bounds
  have henough : ¬ (b1 :: b2 :: b3 :: rest).length < (formatOf op).length - 1 := by
    simp only [List.length_cons]
    omega
  obtain ⟨k, hk⟩ := Nat.exists_eq_add_of_le' hpos
  simp only [decode, if_neg henough]
  rw [hk]
  rfl

/-- A decoded instruction is called unknown only where its opcode is not in the table: the opcode alone says which it is, and
the check is made for each of the 256 (R93). -/
theorem decodeBytes_wellFormed (op b1 b2 b3 : Byte) : (decodeBytes op b1 b2 b3).wellFormed = true := by
  have hopcode : (decodeBytes op b1 b2 b3).wellFormed = (decodeBytes op 0 0 0).wellFormed := by
    unfold decodeBytes
    split <;> rfl
  have heach : ∀ o : Byte, (decodeBytes o 0 0 0).wellFormed = true := by decide
  rw [hopcode, heach]

theorem opcodeOf_decodeBytes (op b1 b2 b3 : Byte) : opcodeOf (decodeBytes op b1 b2 b3) = op := by
  unfold decodeBytes
  split <;> first | rfl | (next h => exact BitVec.eq_of_toNat_eq h.symm)

theorem decodeBytes_eq_unknown_iff (op b1 b2 b3 : Byte) :
    decodeBytes op b1 b2 b3 = .unknown op ↔ isUnknownOpcode op = true := by
  constructor
  · intro h
    have hwf := decodeBytes_wellFormed op b1 b2 b3
    rwa [h] at hwf
  · exact decodeBytes_unknown op b1 b2 b3

/-- Settles O3: the instruction is what `decodeBytes` makes of the four bytes. -/
theorem decodingIsTotalByTheFirstByte : Obligations.DecodingIsTotalByTheFirstByte := by
  intro op b1 b2 b3 rest
  refine ⟨decodeBytes op b1 b2 b3, decode_of_four op b1 b2 b3 rest, decodeBytes_wellFormed op b1 b2 b3,
    opcodeOf_decodeBytes op b1 b2 b3, decodeBytes_length op b1 b2 b3, decodeBytes_eq_unknown_iff op b1 b2 b3, fun h => ?_⟩
  rw [decodeBytes_unknown op b1 b2 b3 h]
  rfl

/-! Ignored bits -/

/-- The register byte with the bits its format ignores at zero, as the encoder writes it (R89, R91). -/
def usedBits (f : Format) (b1 : Byte) : Byte :=
  match f with
  | .O => 0
  | .RR | .RSH => regByte (rdField b1) (rsField b1)
  | .RD | .RI8 | .RI16 => regByte (rdField b1) 0
  | .RS => regByte 0 (rsField b1)
  | .A16 => b1

/-- Decode looks at the bits its format uses alone, but for NOT, whose term keeps `rs` (R91, R208). An instruction reads nothing
of the register byte that `usedBits` changes, or both fields, or `rd` before an immediate, or one field. -/
theorem decodeBytes_usedBits {op : Byte} (b1 b2 b3 : Byte) (hnot : op ≠ 0x36) :
    decodeBytes op (usedBits (formatOf op) b1) b2 b3 = decodeBytes op b1 b2 b3 := by
  unfold formatOf decodeBytes
  split <;> first
    | rfl
    | exact congrArg₂ _ (rdField_regByte _ _) (rsField_regByte _ _)
    | exact congrArg₂ _ (rdField_regByte _ _) rfl
    | exact congrArg _ (rsField_regByte _ _)
    | exact congrArg _ (rdField_regByte _ _)
    | exact absurd (BitVec.eq_of_toNat_eq ‹op.toNat = 0x36›) hnot

theorem decodeBytes_congr_usedBits {op b1 c1 : Byte} (b2 b3 : Byte) (hnot : op ≠ 0x36)
    (h : usedBits (formatOf op) b1 = usedBits (formatOf op) c1) : decodeBytes op b1 b2 b3 = decodeBytes op c1 b2 b3 := by
  rw [← decodeBytes_usedBits b1 b2 b3 hnot, h, decodeBytes_usedBits c1 b2 b3 hnot]

/-- NOT reads its `rs` field only under `NOT_SRC = Rs` (R208). -/
theorem exec_not_congr {s : State} {rs qs : Reg} (rd : Reg) (h : s.params.notSrc = .rs → rs = qs) :
    exec (.not rd rs) s = exec (.not rd qs) s := by
  have hread : s.notOperand rd rs = s.notOperand rd qs := by
    unfold State.notOperand
    split
    · rfl
    · next hsrc => rw [h hsrc]
  show execNot rd rs s = execNot rd qs s
  simp only [execNot, hread, instrCost]

/-- Settles O4: equal fields are equal used bits, so both words decode to one instruction; the two terms of NOT may differ in `rs`
and execute alike. -/
theorem ignoredBitsHaveNoEffect : Obligations.IgnoredBitsHaveNoEffect := by
  intro s op b1 c1 b2 b3 h
  by_cases hnot : op = 0x36
  · subst hnot
    obtain ⟨hrd, hrs⟩ := h
    show exec (.not (rdField b1) (rsField b1)) s = exec (.not (rdField c1) (rsField c1)) s
    rw [show rdField b1 = rdField c1 from hrd]
    exact exec_not_congr _ (hrs rfl)
  · have hused : usedBits (formatOf op) b1 = usedBits (formatOf op) c1 := by
      cases hf : formatOf op <;> rw [hf] at h <;> simp only [usedBits, rdField, rsField]
      case RR | RSH => rw [h.1, h.2]
      case RD => rw [h.1]
      case RS | RI8 | RI16 | A16 => rw [h]
    rw [decodeBytes_congr_usedBits b2 b3 hnot hused]

/-! System instructions -/

/-- Settles O20: cost and frame are those of every instruction; HALT and DISPLAY write `true`. -/
theorem systemInstructionsRun : Obligations.SystemInstructionsRun := by
  intro s op
  exact ⟨runs_of_exec rfl rfl trivial, runs_of_exec rfl rfl rfl, runs_of_exec rfl rfl rfl,
    fun h => runs_of_exec (decode_unknown op [] h) rfl trivial⟩

/-! The worked encodings -/

/-- Settles O2: the assembler runs on each text and the decoder on each encoding. -/
theorem workedEncodingsAssembleAndDecode : Obligations.WorkedEncodingsAssembleAndDecode := by
  unfold Obligations.WorkedEncodingsAssembleAndDecode
  decide

end Sys2Proof.Proofs

/-! Family 40_system.md: the step, its cost, the host's first turn, and DIV. -/

namespace Sys2Proof.Proofs
open Sys2Proof.Machine

/-! The step, halted and running (R126, R128) -/

theorem step_of_halted {s : State} (h : s.halted = true) : step s = .next s := if_pos h

theorem stepCost_of_halted {s : State} (h : s.halted = true) : s.stepCost = 0 := if_pos h

theorem step_of_running {s : State} (h : s.halted = false) : step s = exec s.fetchInstr.1 s.fetchInstr.2 :=
  if_neg (ne_true_of_eq_false h)

theorem stepCost_of_running {s : State} (h : s.halted = false) : s.stepCost = instrCost s.fetchInstr.1 s.fetchInstr.2 :=
  if_neg (ne_true_of_eq_false h)

/-- Settles O6: both the step and its cost test `halted` first. -/
theorem haltedStepChangesNothing : Obligations.HaltedStepChangesNothing := fun _ h =>
  ⟨step_of_halted h, stepCost_of_halted h⟩

/-- The fetch is the decoder on the four bytes at `pc`, and moves `pc` past the instruction (R127, R128). -/
theorem fetchInstr_of_decode {s : State} {i : Instr} {rest : List Byte}
    (h : decode [s.read8 s.pc, s.read8 (s.pc + 1), s.read8 (s.pc + 2), s.read8 (s.pc + 3)] = .ok (i, rest)) :
    s.fetchInstr = (i, s.setPc (s.pc + BitVec.ofNat 16 i.length)) := by
  rw [decode_of_four] at h
  cases h
  rw [State.fetchInstr_eq, decodeBytes_length]

/-- Settles O5: a running step and its cost are those of the fetched instruction, which is the decoded one. -/
theorem stepRunsTheDecodedInstruction : Obligations.StepRunsTheDecodedInstruction := by
  intro s i rest hrunning hdecode
  rw [step_of_running hrunning, stepCost_of_running hrunning, fetchInstr_of_decode hdecode]
  exact ⟨rfl, rfl⟩

@[simp] theorem fetchInstr_cycles (s : State) : s.fetchInstr.2.cycles = s.cycles := by
  rw [State.fetchInstr_eq, State.setPc_cycles]

/-- Settles O8: a halted step costs 0 and keeps the counter; a running one fetches, which keeps it, and executes. -/
theorem stepAddsItsCost : Obligations.StepAddsItsCost := by
  intro s t h
  cases hhalted : s.halted with
  | true =>
    rw [step_of_halted hhalted] at h
    cases h
    rw [stepCost_of_halted hhalted, BitVec.add_zero]
  | false =>
    rw [step_of_running hhalted] at h
    rw [stepCost_of_running hhalted, exec_cycles h, fetchInstr_cycles]

/-! A turn of the host's loop (R290) -/

/-- The budget and the run control are tested before the instruction. -/
theorem hostTurn_of_stop {s : State} {maxCycles run : Nat}
    (h : maxCycles ≤ run ∨ s.halted = true ∨ s.waitingForInput = true) : s.hostTurn maxCycles run = .returns s run := by
  refine if_neg fun hgo => ?_
  simp only [Bool.and_eq_true, decide_eq_true_eq, Bool.not_eq_true'] at hgo
  obtain ⟨⟨hbudget, hrunning⟩, hready⟩ := hgo
  obtain hspent | hhalted | hwaiting := h
  · exact hspent.not_gt hbudget
  · exact ne_true_of_eq_false hrunning hhalted
  · exact ne_true_of_eq_false hready hwaiting

/-- A turn that runs an instruction ends the call where a display request is pending after it and
`STEP_PENDING_DISPLAY` is `one` or the instruction is DISPLAY (R287). -/
theorem hostTurn_of_running {s t : State} {maxCycles run : Nat} (hbudget : run < maxCycles) (hrunning : s.halted = false)
    (hready : s.waitingForInput = false) (hstep : step s = .next t) :
    s.hostTurn maxCycles run =
      if t.displayRequested = true ∧ (s.params.stepPendingDisplay = .one ∨ s.fetchInstr.1 = .display) then
        .returns t (run + s.stepCost)
      else .goesOn t (run + s.stepCost) := by
  simp [State.hostTurn, hbudget, hrunning, hready, hstep]

/-- Opcode 0x02 is DISPLAY, whatever follows it (R92). -/
theorem fetchInstr_display {s : State} (h : s.read8 s.pc = 0x02) : s.fetchInstr.1 = .display := by
  rw [State.fetchInstr_eq, h]
  rfl

/-- Settles O14: each of the three calls returns in its first turn. -/
theorem hostStepStops : Obligations.HostStepStops := by
  refine ⟨fun s maxCycles hhalted => ?_, fun s => ?_, ?_⟩
  · exact State.hostStepLoop_returns (hostTurn_of_stop (.inr (.inl hhalted)))
  · exact State.hostStepLoop_returns (hostTurn_of_stop (.inl le_rfl))
  · intro s t maxCycles hrunning hready hbudget hstep hrequest hstop
    have hpending : t.displayRequested = true ∧ (s.params.stepPendingDisplay = .one ∨ s.fetchInstr.1 = .display) :=
      ⟨hrequest, hstop.imp_right fetchInstr_display⟩
    have hturn : s.hostTurn maxCycles 0 = .returns t s.stepCost := by
      rw [hostTurn_of_running hbudget hrunning hready hstep, if_pos hpending, Nat.zero_add]
    exact State.hostStepLoop_returns hturn

/-! DIV (R188) -/

/-- The flags `LogicFlags` of the model writes, in the terms of the statements (R201). -/
theorem logicFlags_spec (r : Word) (f : Flags) : Claims.LogicFlags r f (logicFlags r f) :=
  ⟨⟨decide_eq_true_iff, BitVec.msb_eq_getLsbD_last r⟩, rfl, rfl⟩

theorem divide_by_zero {a b : Word} (h : b = 0) : divQuotient a b = 0xFFFF ∧ divRemainder a b = a :=
  ⟨if_pos h, if_pos h⟩

/-- Euclidean division of the unsigned values. -/
theorem divide_by_nonzero {a b : Word} (h : b ≠ 0) :
    (divQuotient a b).toNat * b.toNat + (divRemainder a b).toNat = a.toNat ∧ (divRemainder a b).toNat < b.toNat := by
  have hpos : 0 < b.toNat := Nat.pos_of_ne_zero fun h0 => h (BitVec.eq_of_toNat_eq h0)
  rw [divQuotient, divRemainder, if_neg h, if_neg h, BitVec.toNat_udiv, BitVec.toNat_umod]
  exact ⟨Nat.div_add_mod' _ _, Nat.mod_lt _ hpos⟩

/-- Settles O36: Rd is written before R0, so R0 holds the remainder even where Rd is R0. -/
theorem divideRuns : Obligations.DivideRuns := by
  intro s rd rs
  refine ⟨divQuotient (s.reg rd) (s.reg rs), divRemainder (s.reg rd) (s.reg rs), divide_by_zero, divide_by_nonzero,
    runs_of_exec (decode_registers rd rs fun _ => rfl) rfl ⟨?_, fun hrd => ?_, logicFlags_spec _ _⟩⟩
  · exact State.reg_setReg_same _ 0 _
  · exact (State.reg_setReg_other _ 0 rd _ hrd).trans (State.reg_setReg_same s rd _)

end Sys2Proof.Proofs

/-! Family 41_console.md: the console the host reads, the filtered writer, the ring, the digits of PUTI and PUTX, and the console
instructions. -/

namespace Sys2Proof.Proofs
open Sys2Proof.Machine

/-! The host's commands keep the invariant -/

theorem resetCpu_console_wf {s : State} (h : s.console.Wf) : s.resetCpu.console.Wf := by
  show s.consoleAfterResetCpu.Wf
  unfold State.consoleAfterResetCpu
  split
  · exact h
  · exact Console.wf_empty false

theorem setKey_inv {s : State} (code : Byte) (pressed : Bool) (h : s.Inv) : (s.setKey code pressed).Inv := by
  cases pressed with
  | false => exact { h with key := Nat.zero_le 1 }
  | true => exact { h with key := le_rfl }

/-- Settles O12: a command that touches neither memory, console, `waiting_for_input` nor `key_state` keeps each part; the others
put a sound part in its place. -/
theorem hostCommandsKeepTheInvariant : Obligations.HostCommandsKeepTheInvariant := by
  intro s bytes delta code pressed h
  refine ⟨?_, ?_, ?_, setKey_inv code pressed h, ?_, ?_, ?_⟩
  · exact { mem := h.mem, console := resetCpu_console_wf h.console, waiting := rfl, key := h.key }
  · exact { h with mem := State.loadProgram_wf s bytes h.mem }
  · exact { h with }
  · exact { h with }
  · exact { h with console := { h.console with } }
  · exact { h with console := Console.wf_empty _ }

/-! Runs of bytes of the store -/

@[simp] theorem length_slice (m : Memory) (k n : Nat) : (m.slice k n).length = n := by
  rw [Memory.slice, List.length_map, List.length_range]

@[simp] theorem getElem_slice (m : Memory) {k n i : Nat} (h : i < (m.slice k n).length) :
    (m.slice k n)[i] = m.read (k + i) := by
  simp only [Memory.slice, List.getElem_map, List.getElem_range]

/-! The queries -/

/-- Settles O57: the length and the position are at most 4096, so that 16 bits hold them; the rest is as the commands write it. -/
theorem consoleCommands : Obligations.ConsoleCommands := by
  intro s h
  have hlen : s.console.clen ≤ 4096 := h.console.len
  have hpos : s.console.cpos < 4096 := h.console.pos
  refine ⟨length_slice _ 0 4096, fun k hk => ?_, ?_, ?_, rfl, rfl, rfl, rfl, fun _ => rfl, rfl⟩
  · rw [State.consoleBytes, List.getElem?_eq_getElem (by rwa [length_slice]), getElem_slice, Nat.zero_add]
  · rw [State.consoleLength, BitVec.toNat_ofNat, Nat.mod_eq_of_lt (by omega)]
  · rw [State.consoleWritePos, BitVec.toNat_ofNat, Nat.mod_eq_of_lt (by omega)]

/-! The filtered writer -/

/-- The filter of the model is that of R141. -/
theorem printable_iff (b : Byte) : printable b = true ↔ (0x20 ≤ b.toNat ∧ b.toNat ≤ 0x7E) ∨ b = 0x0A := by
  have hnewline : b = 0x0A ↔ b.toNat = 0x0A := BitVec.toNat_eq
  rw [hnewline]
  simp [printable]

/-- Settles O21: the two laws of the writer, and the ring is canonical, so that it gives the stored byte back. -/
theorem filteredWriter : Obligations.FilteredWriter := by
  intro c b hc
  rw [← printable_iff]
  constructor
  · intro hdropped
    exact Console.emit_dropped c b (eq_false_of_ne_true hdropped)
  · intro hstored
    rw [Console.emit_stored c b hstored]
    exact ⟨Memory.read_write_same _ _ _ _ _ hc.canonical, fun k => Memory.read_write_other _ _ k b, rfl, rfl, rfl⟩

/-! The ring as the last bytes written -/

/-- The console holds the end of `written`, the printable bytes since it was empty: the byte with the number `i` stands at
`i` modulo the capacity while no later byte has come round to that place (R142, R143). -/
structure RingOf (written : List Byte) (c : Console) : Prop where
  wf : c.Wf
  pos : c.cpos = written.length % consoleCapacity
  len : c.clen = min written.length consoleCapacity
  held : ∀ i (h : i < written.length), written.length ≤ i + consoleCapacity → c.cbuf.read (i % consoleCapacity) = written[i]

theorem ringOf_empty (updated : Bool) : RingOf [] ⟨[], 0, 0, updated⟩ where
  wf := Console.wf_empty updated
  pos := rfl
  len := rfl
  held _ h := absurd h (Nat.not_lt_zero _)

theorem RingOf.emit_printable {written : List Byte} {c : Console} (h : RingOf written c) {b : Byte} (hb : printable b = true) :
    RingOf (written ++ [b]) (c.emit b) := by
  obtain ⟨hwf, hpos, hlen, hheld⟩ := h
  refine ⟨Console.wf_emit c b hwf, ?_, ?_, fun i hi hrecent => ?_⟩ <;>
    rw [Console.emit_stored c b hb]
  · rw [List.length_append, List.length_singleton, hpos, Nat.mod_add_mod]
  · show min (c.clen + 1) consoleCapacity = _
    rw [List.length_append, List.length_singleton, hlen]
    omega
  · rw [List.length_append, List.length_singleton] at hi hrecent
    obtain hnew | hold : i = written.length ∨ i < written.length := by omega
    · subst hnew
      rw [List.getElem_concat_length rfl, ← hpos]
      exact Memory.read_write_same _ _ _ _ _ hwf.canonical
    · have hplace : i % consoleCapacity ≠ c.cpos := by
        rw [hpos]
        unfold consoleCapacity at hrecent ⊢
        omega
      rw [List.getElem_append_left hold, ← hheld i hold (by omega)]
      exact Memory.read_write_other _ _ _ _ hplace

theorem RingOf.emitAll {written : List Byte} {c : Console} (h : RingOf written c) (bs : List Byte) :
    RingOf (written ++ bs.filter printable) (c.emitAll bs) := by
  induction bs generalizing written c with
  | nil => rwa [List.filter_nil, List.append_nil]
  | cons b bs ih =>
    rw [Console.emitAll_cons]
    cases hb : printable b with
    | false =>
      rw [List.filter_cons_of_neg (ne_true_of_eq_false hb), Console.emit_dropped c b hb]
      exact ih h
    | true =>
      rw [List.filter_cons_of_pos hb, List.append_cons]
      exact ih (h.emit_printable hb)

/-- A full ring read from the position `p` on and around is the ring read at `p`, `p + 1`, … modulo the capacity. -/
theorem getElem_slice_around (m : Memory) {p i : Nat} (hp : p < consoleCapacity)
    (h : i < (m.slice p (consoleCapacity - p) ++ m.slice 0 p).length) :
    (m.slice p (consoleCapacity - p) ++ m.slice 0 p)[i] = m.read ((p + i) % consoleCapacity) := by
  rw [List.length_append, length_slice, length_slice] at h
  rw [List.getElem_append]
  simp only [length_slice, getElem_slice]
  split
  · rw [Nat.mod_eq_of_lt (by omega)]
  · have haround : (p + i) % consoleCapacity = 0 + (i - (consoleCapacity - p)) := by
      rw [Nat.mod_eq_sub_mod (by omega), Nat.mod_eq_of_lt (by omega)]
      omega
    rw [haround]

/-- R152: what the host reads off the ring is the last 4,096 of the bytes written. -/
theorem RingOf.view {written : List Byte} {s : State} (h : RingOf written s.console) :
    s.consoleView = written.drop (written.length - consoleCapacity) := by
  obtain ⟨hwf, hpos, hlen, hheld⟩ := h
  unfold State.consoleView
  split
  · next hfilling =>
    have hlt : written.length < consoleCapacity := by omega
    have hall : s.console.clen = written.length := by omega
    rw [Nat.sub_eq_zero_of_le hlt.le, List.drop_zero]
    refine List.ext_getElem (by rw [length_slice, hall]) fun i _ hi => ?_
    rw [getElem_slice, Nat.zero_add, ← hheld i hi (by omega), Nat.mod_eq_of_lt (by omega)]
  · next hfull =>
    have hpos' := hwf.pos
    have hle : consoleCapacity ≤ written.length := by omega
    refine List.ext_getElem ?_ fun i h1 h2 => ?_
    · rw [List.length_append, length_slice, length_slice, List.length_drop]
      omega
    · have hplace : written.length + i = written.length - consoleCapacity + i + consoleCapacity := by omega
      rw [getElem_slice_around _ hwf.pos, List.getElem_drop, ← hheld _ _ (by omega), hpos, Nat.mod_add_mod, hplace,
        Nat.add_mod_right]

/-- Settles O25: a cleared console is the ring of no bytes, and the writer appends the printable ones. -/
theorem consoleViewIsTheLastBytes : Obligations.ConsoleViewIsTheLastBytes := by
  intro s bs
  exact RingOf.view (s := s.clearConsole.emitAll bs) ((ringOf_empty s.console.cupd).emitAll bs)

/-! The digits of PUTI (R150) -/

/-- The byte of a decimal digit (ASCII, R150). -/
def digitByte (d : Nat) : Byte := BitVec.ofNat 8 (0x30 + d)

theorem digitByte_toNat {d : Nat} (h : d < 10) : (digitByte d).toNat = 0x30 + d := by
  rw [digitByte, BitVec.toNat_ofNat]
  omega

/-- The loop of `Dec` puts the digits of `v`, the most significant first, before what it has. -/
theorem decLoop_eq_digits {fuel v : Nat} (acc : List Byte) (h : v < 10 ^ fuel) :
    decLoop fuel v acc = ((Nat.digits 10 v).map digitByte).reverse ++ acc := by
  induction fuel generalizing v acc with
  | zero =>
    obtain rfl : v = 0 := by omega
    rfl
  | succ fuel ih =>
    unfold decLoop
    split
    · next hzero => rw [hzero]; rfl
    · next hne =>
      rw [ih _ (by omega), Nat.digits_def' (by decide) (Nat.pos_of_ne_zero hne), List.map_cons, List.reverse_cons,
        List.append_assoc]
      rfl

theorem decString_zero : decString 0 = [0x30] := rfl

theorem decString_of_ne_zero {v : Word} (h : v ≠ 0) : decString v = ((Nat.digits 10 v.toNat).map digitByte).reverse := by
  have hfuel : v.toNat < 10 ^ 5 := v.isLt.trans (by decide)
  rw [decString, if_neg h, decLoop_eq_digits _ hfuel, List.append_nil]

/-- Digits written most significant first read as the number they are the digits of. -/
theorem foldl_reverse_digits {ds : List Nat} (h : ∀ d ∈ ds, d < 10) :
    (ds.map digitByte).reverse.foldl (fun n d => 10 * n + (d.toNat - 0x30)) 0 = Nat.ofDigits 10 ds := by
  induction ds with
  | nil => rfl
  | cons d ds ih =>
    obtain ⟨hd, hds⟩ := List.forall_mem_cons.mp h
    rw [List.map_cons, List.reverse_cons, List.foldl_append, ih hds, Nat.ofDigits_cons, List.foldl_cons, List.foldl_nil,
      digitByte_toNat hd, Nat.add_sub_cancel_left,
      Nat.add_comm]

/-- Settles O23: for `v` other than 0, `Dec(v)` is the numeral that `Nat.digits` gives, whose last digit is not 0. -/
theorem decimalConversion : Obligations.DecimalConversion := by
  intro v
  by_cases hv : v = 0
  · subst hv
    rw [decString_zero]
    decide
  · have hnum : v.toNat ≠ 0 := fun h => hv (BitVec.eq_of_toNat_eq h)
    have hdigit : ∀ d ∈ Nat.digits 10 v.toNat, d < 10 := fun d => Nat.digits_lt_base (by decide)
    have hne : Nat.digits 10 v.toNat ≠ [] := Nat.digits_ne_nil_iff_ne_zero.mpr hnum
    rw [decString_of_ne_zero hv]
    refine ⟨?_, ?_, fun h => absurd h hv, fun _ => ?_, ?_, ?_⟩
    · rw [foldl_reverse_digits hdigit, Nat.ofDigits_digits]
    · intro b hb
      obtain ⟨d, hd, rfl⟩ := List.mem_map.mp (List.mem_reverse.mp hb)
      have hlt := hdigit d hd
      rw [digitByte_toNat hlt]
      omega
    · have hlead := Nat.getLast_digit_ne_zero 10 hnum
      rw [List.head?_reverse, List.getLast?_map, List.getLast?_eq_getLast_of_ne_nil hne, Option.map_some]
      intro h
      have hbyte := congrArg BitVec.toNat (Option.some.inj h)
      rw [digitByte_toNat (hdigit _ (List.getLast_mem hne))] at hbyte
      exact hlead (Nat.add_left_cancel hbyte)
    · rw [List.length_reverse, List.length_map]
      exact List.length_pos_iff.mpr hne
    · rw [List.length_reverse, List.length_map, Nat.digits_length_le_iff (by decide)]
      exact v.isLt.trans (by decide)

/-! The digits of PUTX (R151) -/

theorem nibble_toNat (v : Word) (k : Nat) : (v.extractLsb' (4 * k) 4).toNat = v.toNat / 16 ^ k % 16 := by
  rw [BitVec.extractLsb'_toNat, Nat.shiftRight_eq_div_pow, Nat.pow_mul]

theorem hexDigit_eq (n : Nat) :
    hexDigit n = if n ≤ 9 then BitVec.ofNat 8 (0x30 + n) else BitVec.ofNat 8 (0x41 + n - 10) := by
  unfold hexDigit
  split
  · rw [if_pos (by omega)]
  · rw [if_neg (by omega), Nat.add_sub_assoc (by omega)]

/-- Settles O24: the four numbers the model turns into digits are the nibbles of `v`. -/
theorem hexadecimalConversion : Obligations.HexadecimalConversion := by
  intro v
  have htop : v.toNat / 4096 = v.toNat / 16 ^ 3 % 16 := by omega
  have hlow : v.toNat % 16 = v.toNat / 16 ^ 0 % 16 := by rw [Nat.pow_zero, Nat.div_one]
  simp only [nibble_toNat, ← hexDigit_eq]
  rw [hex4, htop, hlow]
  rfl

/-! The console instructions (R146 to R149) -/

/-- PUTS reads the `n` bytes before the first NUL of the string at `a`, or `m` bytes where they hold no NUL (R147). -/
theorem readString_spec (s : State) (m : Nat) (a : Word) :
    ∃ n ≤ m, (∀ i, i < n → s.read8 (a + BitVec.ofNat 16 i) ≠ 0) ∧ (n < m → s.read8 (a + BitVec.ofNat 16 n) = 0) ∧
      s.readString m a = (List.range n).map fun i => s.read8 (a + BitVec.ofNat 16 i) := by
  induction m generalizing a with
  | zero => exact ⟨0, le_rfl, nofun, nofun, rfl⟩
  | succ m ih =>
    have hfirst : a + BitVec.ofNat 16 0 = a := BitVec.add_zero a
    have hshift : ∀ i : Nat, a + BitVec.ofNat 16 (i + 1) = a + 1 + BitVec.ofNat 16 i := fun i => by bv_omega
    by_cases hnul : s.read8 a = 0
    · refine ⟨0, Nat.zero_le _, nofun, fun _ => ?_, if_pos hnul⟩
      rw [hfirst, hnul]
    · obtain ⟨n, hle, hbytes, hend, hread⟩ := ih (a + 1)
      refine ⟨n + 1, Nat.succ_le_succ hle, fun i hi => ?_, fun hlt => ?_, ?_⟩
      · cases i with
        | zero => rwa [hfirst]
        | succ i =>
          rw [hshift]
          exact hbytes i (Nat.lt_of_succ_lt_succ hi)
      · rw [hshift]
        exact hend (Nat.lt_of_succ_lt_succ hlt)
      · rw [State.readString, if_neg hnul, hread, List.range_succ_eq_map, List.map_cons, List.map_map, hfirst]
        exact congrArg _ (List.map_congr_left fun i _ => congrArg _ (hshift i).symm)

/-- Settles O22: each emits its bytes through the writer; PUTS is charged for the bytes it reads. -/
theorem consoleInstructionsRun : Obligations.ConsoleInstructionsRun := by
  intro s rs
  refine ⟨?_, ?_, ?_, ?_⟩
  · exact runs_of_exec (decode_rsByte 0 rs fun _ => rfl) rfl rfl
  · obtain ⟨n, hle, hbytes, hend, hread⟩ := readString_spec s 256 (s.reg rs)
    refine ⟨n, hle, hbytes, hend, ?_⟩
    have hcost : instrCost (.puts rs) s = s.params.cycleCost.puts + n := by
      rw [instrCost, hread, List.length_map, List.length_range]
    rw [← hcost, ← hread]
    exact runs_of_exec (decode_rsByte 0 rs fun _ => rfl) rfl rfl
  · exact runs_of_exec (decode_rsByte 0 rs fun _ => rfl) rfl rfl
  · exact runs_of_exec (decode_rsByte 0 rs fun _ => rfl) rfl rfl

end Sys2Proof.Proofs

/-! Family 42_data_movement.md: PUSH against POP, and the calls and the return, which use the same stack. -/

namespace Sys2Proof.Proofs
open Sys2Proof.Machine

/-! PUSH then POP (R175) -/

/-- With `sp` at 0 both stack bytes are reserved: the push is discarded and the pop reads zeros (R59, R175). -/
theorem push_pop_loses_register_at_reserved :
    ∃ (s t u : State) (r : Reg),
      s.mem.wf = true ∧ exec (.push r) s = .next t ∧ exec (.pop r) t = .next u ∧ u.reg r ≠ s.reg r :=
  ⟨(State.reset.setSp 0).setReg 1 0x1234, _, _, 1, by decide, rfl, rfl, by decide⟩

/-- Settles O30: POP reads the word that PUSH wrote at the lowered `sp`, and raises `sp` again. -/
theorem pushPopRoundTrip : Obligations.PushPopRoundTrip := by
  refine ⟨fun s t u r hm hpush hpop => ?_, push_pop_loses_register_at_reserved⟩
  obtain rfl := (retire_eq_next _ _ _).mp hpush
  obtain rfl := (retire_eq_next _ _ _).mp hpop
  have hsp : (s.push16 (s.reg r)).sp = s.sp - 2 := push16_sp s _
  constructor
  · show (s.push16 (s.reg r)).sp + 2 = s.sp
    rw [hsp, BitVec.sub_add_cancel]
  · intro h1 h2
    calc _ = (s.push16 (s.reg r)).read16 (s.push16 (s.reg r)).sp := State.reg_setReg_same _ r _
      _ = s.reg r := by rw [hsp, read16_push16 _ hm h1 h2]

/-! CALL, CALLR and RET (R254 to R256) -/

/-- What a call does before its cost is charged, whatever its target is read from: the return address goes to the stack and
control to the target (R172). -/
theorem push16_setPc_spec {s : State} (ret target : Word) (hm : s.mem.wf = true) :
    ((s.push16 ret).setPc target).pc = target ∧ ((s.push16 ret).setPc target).sp = s.sp - 2 ∧
      Claims.WordStored s ((s.push16 ret).setPc target) (s.sp - 2) ret :=
  ⟨rfl, push16_sp s ret, wordStored_push16 ret hm⟩

/-- Settles O44: both calls are `Push16` of `pc` and a jump, RET is a jump to what `Pop16` gives. -/
theorem callsAndReturnRun : Obligations.CallsAndReturnRun := by
  intro s rs addr
  refine ⟨fun hm => ⟨?_, ?_⟩, ?_⟩
  · exact runs_of_exec (decode_address addr fun _ _ => rfl) rfl (push16_setPc_spec s.pc addr hm)
  · exact runs_of_exec (decode_rsByte 0 rs fun _ => rfl) rfl (push16_setPc_spec s.pc (s.reg rs) hm)
  · rw [wordAt_eq_read16]
    exact runs_of_exec rfl rfl ⟨rfl, rfl⟩

end Sys2Proof.Proofs

/-! Family 43_arithmetic.md: the sum, the difference and the product with their flags, the comparisons, and the conditions after
CMP. -/

namespace Sys2Proof.Proofs
open Sys2Proof.Machine

/-! The flags of the sum and of the difference as the rules state them (R181, R182) -/

/-- The model compares top bits with `msb`, the statements with bit 15. -/
theorem bit15_eq_msb (v : Word) : v.getLsbD 15 = v.msb := (BitVec.msb_eq_getLsbD_last v).symm

theorem addFlags_spec (a b : Word) : Claims.SumFlags a b (addFlags a b) := by
  refine ⟨⟨decide_eq_true_iff, (bit15_eq_msb _).symm⟩, decide_eq_true_iff, ?_⟩
  simp only [bit15_eq_msb]
  show (a.msb == b.msb && (a + b).msb != a.msb) = true ↔ _
  rw [Bool.and_eq_true, beq_iff_eq, bne_iff_ne]

theorem subFlags_spec (a b : Word) : Claims.DifferenceFlags a b (subFlags a b) := by
  refine ⟨⟨decide_eq_true_iff, (bit15_eq_msb _).symm⟩, decide_eq_true_iff, ?_⟩
  simp only [bit15_eq_msb]
  show (a.msb != b.msb && (a - b).msb == b.msb) = true ↔ _
  rw [Bool.and_eq_true, bne_iff_ne, beq_iff_eq]

/-! The operations that write a result and its flags -/

theorem addInto_spec (s : State) (rd : Reg) (b : Word) :
    (s.addInto rd b).reg rd = s.reg rd + b ∧ Claims.SumFlags (s.reg rd) b (s.addInto rd b).flags :=
  ⟨State.reg_setReg_same s rd _, addFlags_spec _ _⟩

theorem subInto_spec (s : State) (rd : Reg) (a b : Word) :
    (s.subInto rd a b).reg rd = a - b ∧ Claims.DifferenceFlags a b (s.subInto rd a b).flags :=
  ⟨State.reg_setReg_same s rd _, subFlags_spec _ _⟩

theorem logicInto_spec (s : State) (rd : Reg) (r : Word) :
    (s.logicInto rd r).reg rd = r ∧ Claims.LogicFlags ((s.logicInto rd r).reg rd) s.flags (s.logicInto rd r).flags := by
  have hreg : (s.logicInto rd r).reg rd = r := State.reg_setReg_same s rd r
  rw [hreg]
  exact ⟨rfl, logicFlags_spec r s.flags⟩

/-- Both widenings of R90 are those of the model. -/
theorem immOf_eq_imm (s : State) (b : Byte) : Claims.immOf s b = s.imm b := by
  unfold Claims.immOf State.imm widenImm
  cases s.params.imm8Ext <;> rfl

/-! Arithmetic (R183 to R191) -/

/-- Settles O32: the three forms are `addInto` with Rs, the widened immediate, and 1. -/
theorem addFormsRun : Obligations.AddFormsRun := by
  intro s rd rs imm
  rw [immOf_eq_imm]
  refine ⟨?_, ?_, ?_⟩
  · exact runs_of_exec (decode_registerByte rd rs fun _ => rfl) rfl (addInto_spec s rd (s.reg rs))
  · exact runs_of_exec (decode_rdByte_operand rd 0 imm fun _ => rfl) rfl (addInto_spec s rd (s.imm imm))
  · exact runs_of_exec (decode_rdByte rd 0 fun _ => rfl) rfl (addInto_spec s rd 1)

/-- Settles O33: the four forms are `subInto`, NEG with 0 on the left. -/
theorem subtractFormsRun : Obligations.SubtractFormsRun := by
  intro s rd rs imm
  rw [immOf_eq_imm]
  refine ⟨?_, ?_, ?_, ?_⟩
  · exact runs_of_exec (decode_registerByte rd rs fun _ => rfl) rfl (subInto_spec s rd (s.reg rd) (s.reg rs))
  · exact runs_of_exec (decode_rdByte_operand rd 0 imm fun _ => rfl) rfl (subInto_spec s rd (s.reg rd) (s.imm imm))
  · exact runs_of_exec (decode_rdByte rd 0 fun _ => rfl) rfl (subInto_spec s rd (s.reg rd) 1)
  · exact runs_of_exec (decode_rdByte rd 0 fun _ => rfl) rfl (subInto_spec s rd 0 (s.reg rd))

/-- Settles O35: the product of words is the product of the numbers modulo 2^16. -/
theorem multiplyRuns : Obligations.MultiplyRuns := by
  intro s rd rs
  obtain ⟨hreg, hflags⟩ := logicInto_spec s rd (s.reg rd * s.reg rs)
  have hproduct : ((s.logicInto rd (s.reg rd * s.reg rs)).reg rd).toNat = (s.reg rd).toNat * (s.reg rs).toNat % 65536 := by
    rw [hreg, BitVec.toNat_mul]
  exact runs_of_exec (decode_registerByte rd rs fun _ => rfl) rfl ⟨hproduct, hflags⟩

/-! Compare and test (R226 to R229) -/

/-- Settles O39: each writes the flags of SUB or AND, and no register. -/
theorem compareFormsRun : Obligations.CompareFormsRun := by
  intro s rd rs imm
  rw [immOf_eq_imm]
  refine ⟨?_, ?_, ?_, ?_⟩
  · exact runs_of_exec (decode_registerByte rd rs fun _ => rfl) rfl (subFlags_spec _ _)
  · exact runs_of_exec (decode_rdByte_operand rd 0 imm fun _ => rfl) rfl (subFlags_spec _ _)
  · exact runs_of_exec (decode_registerByte rd rs fun _ => rfl) rfl (logicFlags_spec _ _)
  · exact runs_of_exec (decode_rdByte_operand rd 0 imm fun _ => rfl) rfl (logicFlags_spec _ _)

/-! The flags as facts about integers (R192) -/

theorem addFlags_c_iff (a b : Word) : (addFlags a b).c = true ↔ 65536 ≤ a.toNat + b.toNat := by
  show decide (a + b < a) = true ↔ _
  rw [decide_eq_true_iff]
  bv_omega

theorem addFlags_v_iff (a b : Word) :
    (addFlags a b).v = true ↔ a.toInt + b.toInt < -32768 ∨ 32767 < a.toInt + b.toInt := by
  have hlibrary : (addFlags a b).v = BitVec.saddOverflow a b := (BitVec.saddOverflow_eq a b).symm
  rw [hlibrary, BitVec.saddOverflow, Bool.or_eq_true, decide_eq_true_iff, decide_eq_true_iff]
  omega

theorem subFlags_z_iff (a b : Word) : (subFlags a b).z = true ↔ a = b := decide_eq_true_iff.trans sub_eq_zero

theorem subFlags_c_iff (a b : Word) : (subFlags a b).c = true ↔ a.toNat < b.toNat := decide_eq_true_iff

theorem subFlags_n_iff (a b : Word) : (subFlags a b).n = true ↔ (a - b).toInt < 0 := by
  show (a - b).msb = true ↔ _
  rw [BitVec.msb_eq_toInt, decide_eq_true_iff]

/-- R182 and the library say in different ways which top bits `x`, `y` of the operands and `d` of the difference mean overflow. -/
theorem differenceOverflow_bits :
    ∀ x y d : Bool, (x != y && d == y) = (!x && y && d || x && !y && !d) := by decide

theorem subFlags_v_iff (a b : Word) :
    (subFlags a b).v = true ↔ a.toInt - b.toInt < -32768 ∨ 32767 < a.toInt - b.toInt := by
  have hlibrary : (subFlags a b).v = BitVec.ssubOverflow a b := by
    rw [BitVec.ssubOverflow_eq]
    exact differenceOverflow_bits a.msb b.msb (a - b).msb
  rw [hlibrary, BitVec.ssubOverflow, Bool.or_eq_true, decide_eq_true_iff, decide_eq_true_iff]
  omega

/-- Settles O34: C compares unsigned numbers, V is the library's test for signed overflow. -/
theorem carryAndOverflowAsIntegers : Obligations.CarryAndOverflowAsIntegers := fun a b =>
  ⟨addFlags_c_iff a b, addFlags_v_iff a b, subFlags_c_iff a b, subFlags_v_iff a b⟩

/-! The conditions after a comparison (R236) -/

/-- N tells the sign of the true difference, except where the difference overflowed and its sign is turned round. -/
theorem subFlags_n_ne_v_iff (a b : Word) : (subFlags a b).n ≠ (subFlags a b).v ↔ a.toInt < b.toInt := by
  have ha := a.toInt_lt
  have ha' := a.le_toInt
  have hb := b.toInt_lt
  have hb' := b.le_toInt
  have hwrap : (a - b).toInt = (a.toInt - b.toInt).bmod 65536 := BitVec.toInt_sub
  rw [Ne, Bool.eq_iff_iff, subFlags_n_iff, subFlags_v_iff, hwrap, Int.bmod_def]
  split <;> omega

/-- A condition that negates another one reads as the negated comparison. -/
theorem condHolds_of_complement {k k' : Cond} {f : Flags} {P : Prop} (h : condHolds k f = true ↔ P)
    (hk : condHolds k' f = !condHolds k f) : condHolds k' f = true ↔ ¬ P := by
  rw [hk, Bool.not_eq_true', ← Bool.not_eq_true, h]

theorem condHolds_a_eq (f : Flags) : condHolds .a f = !condHolds .be f := (Bool.not_or f.c f.z).symm

theorem condHolds_ge_eq (f : Flags) : condHolds .ge f = !condHolds .l f := (Bool.not_not (f.n == f.v)).symm

theorem condHolds_g_eq (f : Flags) : condHolds .g f = !condHolds .le f := by
  show (!f.z && condHolds .ge f) = !(f.z || condHolds .l f)
  rw [condHolds_ge_eq, Bool.not_or]

theorem condHolds_be_subFlags (a b : Word) : condHolds .be (subFlags a b) = true ↔ a.toNat ≤ b.toNat := by
  show ((subFlags a b).c || (subFlags a b).z) = true ↔ _
  rw [Bool.or_eq_true, subFlags_c_iff, subFlags_z_iff, BitVec.toNat_eq, Nat.le_iff_lt_or_eq]

theorem condHolds_l_subFlags (a b : Word) : condHolds .l (subFlags a b) = true ↔ a.toInt < b.toInt :=
  bne_iff_ne.trans (subFlags_n_ne_v_iff a b)

theorem condHolds_le_subFlags (a b : Word) : condHolds .le (subFlags a b) = true ↔ a.toInt ≤ b.toInt := by
  show ((subFlags a b).z || condHolds .l (subFlags a b)) = true ↔ _
  rw [Bool.or_eq_true, subFlags_z_iff, condHolds_l_subFlags, ← BitVec.toInt_inj, le_iff_eq_or_lt]

/-- Settles O43: seven conditions read off the flags of the difference, and the other seven negate them. -/
theorem conditionsAfterCompare : Obligations.ConditionsAfterCompare := by
  intro s t rd rs h
  obtain rfl := (retire_eq_next _ _ _).mp h
  simp only [State.charge_flags, State.setFlags_flags]
  generalize s.reg rd = a, s.reg rs = b
  have hz : condHolds .z (subFlags a b) = true ↔ _ := subFlags_z_iff a b
  have hc : condHolds .c (subFlags a b) = true ↔ _ := subFlags_c_iff a b
  have hn : condHolds .n (subFlags a b) = true ↔ _ := subFlags_n_iff a b
  have ho : condHolds .o (subFlags a b) = true ↔ _ := subFlags_v_iff a b
  have hbe := condHolds_be_subFlags a b
  have hl := condHolds_l_subFlags a b
  have hle := condHolds_le_subFlags a b
  refine ⟨hz, ?nz, hc, ?nc, hn, ?nn, ho, ?no, ?a, hbe, ?g, ?ge, hl, hle⟩
  case nz => exact condHolds_of_complement hz rfl
  case nc => exact (condHolds_of_complement hc rfl).trans not_lt
  case nn => exact (condHolds_of_complement hn rfl).trans not_lt
  case no => exact (condHolds_of_complement ho rfl).trans (not_or.trans (and_congr not_lt not_lt))
  case a => exact (condHolds_of_complement hbe (condHolds_a_eq _)).trans not_le
  case ge => exact (condHolds_of_complement hl (condHolds_ge_eq _)).trans not_lt
  case g => exact (condHolds_of_complement hle (condHolds_g_eq _)).trans not_le

end Sys2Proof.Proofs

/-! Family 44_logical_shift.md: the bitwise instructions, and the shifts as arithmetic on numbers. -/

namespace Sys2Proof.Proofs
open Sys2Proof.Machine

/-! Bitwise operations (R201 to R208) -/

/-- The register that NOT reads, as the statement names it (R208). -/
theorem notOperand_eq_reg (s : State) (rd rs : Reg) :
    s.notOperand rd rs = s.reg (if s.params.notSrc = .rd then rd else rs) := by
  unfold State.notOperand
  cases s.params.notSrc <;> rfl

/-- Settles O37: the seven forms are `logicInto` of their result; NOT's is read bit by bit. -/
theorem bitwiseFormsRun : Obligations.BitwiseFormsRun := by
  intro s rd rs imm
  rw [immOf_eq_imm, ← notOperand_eq_reg]
  refine ⟨?and, ?andi, ?or, ?ori, ?xor, ?xori, ?not⟩
  case and => exact runs_of_exec (decode_registerByte rd rs fun _ => rfl) rfl (logicInto_spec s rd _)
  case andi => exact runs_of_exec (decode_rdByte_operand rd 0 imm fun _ => rfl) rfl (logicInto_spec s rd _)
  case or => exact runs_of_exec (decode_registerByte rd rs fun _ => rfl) rfl (logicInto_spec s rd _)
  case ori => exact runs_of_exec (decode_rdByte_operand rd 0 imm fun _ => rfl) rfl (logicInto_spec s rd _)
  case xor => exact runs_of_exec (decode_registerByte rd rs fun _ => rfl) rfl (logicInto_spec s rd _)
  case xori => exact runs_of_exec (decode_rdByte_operand rd 0 imm fun _ => rfl) rfl (logicInto_spec s rd _)
  case not =>
    obtain ⟨hreg, hflags⟩ := logicInto_spec s rd (~~~s.notOperand rd rs)
    have hbits (k : Nat) (hk : k < 16) :
        ((s.logicInto rd (~~~s.notOperand rd rs)).reg rd).getLsbD k = !(s.notOperand rd rs).getLsbD k := by
      rw [hreg, BitVec.getLsbD_not, decide_eq_true hk, Bool.true_and]
    exact runs_of_exec (decode_registerByte rd rs fun _ => rfl) rfl ⟨hbits, hflags⟩

/-! The shifter (R209) -/

theorem shiftResult_shl_toNat (v : Word) (d : Nat) : (shiftResult .shl v d).toNat = v.toNat * 2 ^ d % 65536 := by
  rw [shiftResult, BitVec.toNat_shiftLeft, Nat.shiftLeft_eq]

theorem shiftResult_shr_toNat (v : Word) (d : Nat) : (shiftResult .shr v d).toNat = v.toNat / 2 ^ d := by
  rw [shiftResult, BitVec.toNat_ushiftRight, Nat.shiftRight_eq_div_pow]

/-- The quotient of `Int` by a positive number is rounded down, as R209 asks. -/
theorem shiftResult_sar_toInt (v : Word) (d : Nat) : (shiftResult .sar v d).toInt = v.toInt / 2 ^ d := by
  rw [shiftResult, BitVec.toInt_sshiftRight, Int.shiftRight_eq_div_pow, Nat.cast_pow, Nat.cast_ofNat]

/-- Distance 0 shifts nothing out, so C stays with V. -/
theorem shiftFlags_of_zero (kind : ShiftKind) (v : Word) (f : Flags) :
    shiftFlags kind v 0 f = logicFlags (shiftResult kind v 0) f := rfl

theorem shiftFlags_of_pos (kind : ShiftKind) (v : Word) (f : Flags) {d : Nat} (h : 0 < d) :
    shiftFlags kind v d f = { logicFlags (shiftResult kind v d) f with c := shiftCarry kind v d } := if_neg h.ne'

/-- Z and N do not look at the bit shifted out. -/
theorem shiftFlags_zeroNegative (kind : ShiftKind) (v : Word) (d : Nat) (f : Flags) :
    Claims.ZeroNegative (shiftResult kind v d) (shiftFlags kind v d f) := by
  obtain ⟨hzn, -, -⟩ := logicFlags_spec (shiftResult kind v d) f
  rcases Nat.eq_zero_or_pos d with rfl | hpos
  · rw [shiftFlags_of_zero]
    exact hzn
  · rw [shiftFlags_of_pos kind v f hpos]
    exact hzn

/-- The model's shifter gives the numbers and the carry of R209. -/
theorem shift_spec (kind : ShiftKind) (v : Word) (d : Nat) (f : Flags) :
    Claims.Shifted kind v d f (shiftResult kind v d) (shiftFlags kind v d f) := by
  refine ⟨?result, shiftFlags_zeroNegative kind v d f, shiftFlags_v kind v d f, ?kept, ?carry⟩
  case result =>
    cases kind with
    | shl => exact shiftResult_shl_toNat v d
    | shr => exact shiftResult_shr_toNat v d
    | sar => exact shiftResult_sar_toInt v d
  case kept =>
    rintro rfl
    rw [shiftFlags_of_zero]
    rfl
  case carry =>
    intro hpos
    rw [shiftFlags_of_pos kind v f hpos]
    cases kind <;> rfl

/-- The low 4 bits of Rs are its number modulo 16 (R210 to R212). -/
theorem shiftCount_eq_mod (s : State) (rs : Reg) : s.shiftCount rs = (s.reg rs).toNat % 16 :=
  BitVec.extractLsb'_toNat 0 4 (s.reg rs)

theorem shiftInto_spec (s : State) (kind : ShiftKind) (rd : Reg) (d : Nat) :
    Claims.Shifted kind (s.reg rd) d s.flags ((s.shiftInto kind rd d).reg rd) (s.shiftInto kind rd d).flags := by
  have hreg : (s.shiftInto kind rd d).reg rd = shiftResult kind (s.reg rd) d := State.reg_setReg_same s rd _
  rw [hreg]
  exact shift_spec kind (s.reg rd) d s.flags

/-- Settles O38: the six forms are `shiftInto` by the low 4 bits of Rs or by the distance in the `rs` field. -/
theorem shiftFormsRun : Obligations.ShiftFormsRun := by
  intro s rd rs dist
  rw [← shiftCount_eq_mod]
  refine ⟨?shl, ?shr, ?sar, ?shli, ?shri, ?sari⟩
  case shl => exact runs_of_exec (decode_registerByte rd rs fun _ => rfl) rfl (shiftInto_spec s .shl rd _)
  case shr => exact runs_of_exec (decode_registerByte rd rs fun _ => rfl) rfl (shiftInto_spec s .shr rd _)
  case sar => exact runs_of_exec (decode_registerByte rd rs fun _ => rfl) rfl (shiftInto_spec s .sar rd _)
  case shli => exact runs_of_exec (decode_registerByte rd dist fun _ => rfl) rfl (shiftInto_spec s .shl rd _)
  case shri => exact runs_of_exec (decode_registerByte rd dist fun _ => rfl) rfl (shiftInto_spec s .shr rd _)
  case sari => exact runs_of_exec (decode_registerByte rd dist fun _ => rfl) rfl (shiftInto_spec s .sar rd _)

end Sys2Proof.Proofs

/-! Family 45_compare.md: CMP, CMPI, TEST and TESTI beside SUB, SUBI, AND and ANDI. -/

namespace Sys2Proof.Proofs
open Sys2Proof.Machine

/-- The charge of an instruction's cost leaves the flags as its effect wrote them. -/
theorem exec_flags_of_retires {i : Instr} {s t u : State} (hexec : exec i s = retire (instrCost i s) u)
    (h : exec i s = .next t) : t.flags = u.flags := by
  rw [hexec, retire_eq_next] at h
  rw [h, State.charge_flags]

theorem registers_and_bytes_kept_of_flags_only {i : Instr} {s t : State} (hwrites : touchOf i s = { flags := true })
    (h : exec i s = .next t) : (∀ r, t.reg r = s.reg r) ∧ ∀ a, t.read8 a = s.read8 a := by
  have kept := exec_frame h
  rw [hwrites] at kept
  exact ⟨fun r => kept.regs r List.not_mem_nil, fun a => kept.bytes a (Nat.zero_le _)⟩

/-- What R230 asks of an instruction `i` beside `j`: `i` writes flags alone, and they are the flags of the effect of `j`. -/
theorem sameFlags_and_kept {i j : Instr} {s t u v : State} {f : Flags}
    (hi : exec i s = retire (instrCost i s) (s.setFlags f)) (hj : exec j s = retire (instrCost j s) v) (hflags : v.flags = f)
    (hwrites : touchOf i s = { flags := true }) (ht : exec i s = .next t) (hu : exec j s = .next u) :
    t.flags = u.flags ∧ (∀ r, t.reg r = s.reg r) ∧ ∀ a, t.read8 a = s.read8 a := by
  have hsame : t.flags = u.flags := calc
    t.flags = f := exec_flags_of_retires hi ht
    _ = v.flags := hflags.symm
    _ = u.flags := (exec_flags_of_retires hj hu).symm
  exact ⟨hsame, registers_and_bytes_kept_of_flags_only hwrites ht⟩

/-- Settles O40: each pair computes its flags by one function of the same operands, `subFlags` or `logicFlags`. -/
theorem flagPurity : Obligations.FlagPurity := by
  intro s rd rs imm p t u hp ht hu
  simp only [List.mem_cons, List.not_mem_nil, or_false] at hp
  obtain rfl | rfl | rfl | rfl := hp
  · exact sameFlags_and_kept rfl rfl (State.subInto_flags s rd (s.reg rd) (s.reg rs)) rfl ht hu
  · exact sameFlags_and_kept rfl rfl (State.subInto_flags s rd (s.reg rd) (s.imm imm)) rfl ht hu
  · exact sameFlags_and_kept rfl rfl (State.logicInto_flags s rd (s.reg rd &&& s.reg rs)) rfl ht hu
  · exact sameFlags_and_kept rfl rfl (State.logicInto_flags s rd (s.reg rd &&& s.imm imm)) rfl ht hu

end Sys2Proof.Proofs

/-! Family 46_control_transfer.md: the jumps, the fourteen conditional jumps, and RET after CALL. -/

namespace Sys2Proof.Proofs
open Sys2Proof.Machine

/-! Unconditional jumps (R237, R238) -/

/-- Settles O41: the effect of both is `setPc`, of the address and of Rs. -/
theorem jumpsRun : Obligations.JumpsRun := by
  intro s rs addr
  constructor
  · exact runs_of_exec (decode_address addr fun _ _ => rfl) rfl (State.setPc_pc s addr)
  · exact runs_of_exec (decode_rsByte 0 rs fun _ => rfl) rfl (State.setPc_pc s (s.reg rs))

/-! Conditional jumps (R236, R239) -/

/-- The conditional jump on each condition: the fourteen share one rule, `Jcc(cond)` (R239). -/
def jumpOn : Cond → Word → Instr
  | .z => .jz
  | .nz => .jnz
  | .c => .jc
  | .nc => .jnc
  | .n => .jn
  | .nn => .jnn
  | .o => .jo
  | .no => .jno
  | .a => .ja
  | .be => .jbe
  | .g => .jg
  | .ge => .jge
  | .l => .jl
  | .le => .jle

theorem exec_jumpOn (k : Cond) (addr : Word) (s : State) :
    exec (jumpOn k addr) s = retire (instrCost (jumpOn k addr) s) (s.branchIf k addr) := by
  cases k <;> rfl

theorem instrCost_jumpOn (k : Cond) (addr : Word) (s : State) : instrCost (jumpOn k addr) s = s.jccCost k := by
  cases k <;> rfl

theorem touchOf_jumpOn (k : Cond) (addr : Word) (s : State) : touchOf (jumpOn k addr) s = { pc := true } := by
  cases k <;> rfl

theorem decode_jumpOn (k : Cond) (addr : Word) :
    decode [opcodeOf (jumpOn k addr), lowByte addr, highByte addr] = .ok (jumpOn k addr, []) := by
  cases k <;> exact decode_address addr fun _ _ => rfl

/-- The rule of R239, once for the fourteen: `pc` by `branchIf`, the cost by the entry of the condition. -/
theorem jumpsWhen_jumpOn (k : Cond) (s : State) (addr : Word) :
    Claims.JumpsWhen s addr (jumpOn k addr) (opcodeOf (jumpOn k addr)) (jccEntry s.params.cycleCost k) (condHolds k s.flags) := by
  have runs := runs_of_exec (post := fun t => t.pc = if condHolds k s.flags then addr else s.pc) (decode_jumpOn k addr)
    (exec_jumpOn k addr s) (State.branchIf_pc s k addr)
  rwa [instrCost_jumpOn, touchOf_jumpOn] at runs

theorem condHolds_l_eq_decide (f : Flags) : condHolds .l f = decide (f.n ≠ f.v) := decide_not.symm

/-- Settles O42: each is `jumpOn` its own condition. The statement writes the signed comparison N ≠ V with `decide`, the model
with `!=`. -/
theorem conditionalJumpsRun : Obligations.ConditionalJumpsRun := by
  intro s addr
  rw [← condHolds_l_eq_decide]
  have jumps (k : Cond) := jumpsWhen_jumpOn k s addr
  exact ⟨jumps .z, jumps .nz, jumps .c, jumps .nc, jumps .n, jumps .nn, jumps .o, jumps .no, jumps .a, jumps .be, jumps .g,
    jumps .ge, jumps .l, jumps .le⟩

/-! RET after CALL (R254, R256, R258) -/

theorem read16_congr {u t : State} {a : Word} (hlow : u.read8 a = t.read8 a) (hhigh : u.read8 (a + 1) = t.read8 (a + 1)) :
    u.read16 a = t.read16 a := by
  rw [State.read16, State.read16, hlow, hhigh]

/-- Settles O45: RET reads the return address that CALL pushed, and its pop undoes the lowering of `sp`. -/
theorem callThenReturn : Obligations.CallThenReturn := by
  intro s t u v addr hm h1 h2 hcall husp hlow hhigh hret
  obtain rfl := (retire_eq_next _ _ _).mp hcall
  obtain rfl := (retire_eq_next _ _ _).mp hret
  have hsp : (s.push16 s.pc).sp = s.sp - 2 := push16_sp s _
  constructor
  · calc u.read16 u.sp = u.read16 (s.push16 s.pc).sp := congrArg u.read16 husp
      _ = (s.push16 s.pc).read16 (s.push16 s.pc).sp := read16_congr hlow hhigh
      _ = s.pc := by rw [hsp, read16_push16 _ hm h1 h2]
  · calc u.sp + 2 = s.sp - 2 + 2 := congrArg (· + 2) (husp.trans hsp)
      _ = s.sp := BitVec.sub_add_cancel ..

end Sys2Proof.Proofs

/-! Family 60_exceptions.md: the host's loop whole, under any cost table and under positive costs, and the device commands. -/

namespace Sys2Proof.Proofs
open Sys2Proof.Machine

/-! One turn of the loop, in the terms of the rule (R290) -/

theorem opcode_of_fetchInstr (s : State) : opcodeOf s.fetchInstr.1 = s.read8 s.pc := by
  rw [State.fetchInstr_eq, opcodeOf_decodeBytes]

/-- The rule names the opcode of DISPLAY, the model the instruction. -/
theorem fetchInstr_display_iff (s : State) : s.fetchInstr.1 = .display ↔ s.read8 s.pc = 0x02 := by
  refine ⟨fun h => ?_, fetchInstr_display⟩
  rw [← opcode_of_fetchInstr, h]
  rfl

theorem displayStops_iff (s t : State) : Claims.DisplayStops s t ↔
    t.displayRequested = true ∧ (s.params.stepPendingDisplay = .one ∨ s.fetchInstr.1 = .display) := by
  rw [Claims.DisplayStops, fetchInstr_display_iff]

theorem hostTurn_of_displayStops {s t : State} {maxCycles run : Nat}
    (htested : run < maxCycles ∧ s.halted = false ∧ s.waitingForInput = false) (hstep : step s = .next t)
    (h : Claims.DisplayStops s t) : s.hostTurn maxCycles run = .returns t (run + s.stepCost) := by
  obtain ⟨hbudget, hrunning, hready⟩ := htested
  rw [hostTurn_of_running hbudget hrunning hready hstep, if_pos ((displayStops_iff s t).mp h)]

theorem hostTurn_of_not_displayStops {s t : State} {maxCycles run : Nat}
    (htested : run < maxCycles ∧ s.halted = false ∧ s.waitingForInput = false) (hstep : step s = .next t)
    (h : ¬ Claims.DisplayStops s t) : s.hostTurn maxCycles run = .goesOn t (run + s.stepCost) := by
  obtain ⟨hbudget, hrunning, hready⟩ := htested
  rw [hostTurn_of_running hbudget hrunning hready hstep, if_neg (mt (displayStops_iff s t).mpr h)]

/-! Courses of the loop -/

/-- The loop stops after `n` turns of a course: for the budget, the run control, or the display request of the last turn (R290). -/
def LoopStops (maxCycles n : Nat) (u : Nat → State) (run : Nat → Nat) : Prop :=
  maxCycles ≤ run n ∨ (u n).halted = true ∨ (u n).waitingForInput = true ∨ ∃ m, n = m + 1 ∧ Claims.DisplayStops (u m) (u n)

section
variable {s : State} {maxCycles n : Nat} {u : Nat → State} {run : Nat → Nat}

theorem loopCourse_zero (hu : u 0 = s) (hrun : run 0 = 0) : Claims.LoopCourse maxCycles s 0 u run where
  start := ⟨hu, hrun⟩
  tested := nofun
  stepped := nofun
  goesOn := nofun

/-- Where the loop does not stop, it makes one more turn. -/
theorem loopCourse_succ (h : Claims.LoopCourse maxCycles s n u run) (hgo : ¬ LoopStops maxCycles n u run)
    (hstep : step (u n) = .next (u (n + 1)) ∧ run (n + 1) = run n + (u n).stepCost) :
    Claims.LoopCourse maxCycles s (n + 1) u run := by
  simp only [LoopStops, not_or, not_le, Bool.not_eq_true] at hgo
  obtain ⟨hbudget, hrunning, hready, hdisplay⟩ := hgo
  refine ⟨h.start, fun i hi => ?_, fun i hi => ?_, fun i hi => ?_⟩
  · obtain hlt | rfl := Nat.lt_succ_iff_lt_or_eq.mp hi
    · exact h.tested i hlt
    · exact ⟨hbudget, hrunning, hready⟩
  · obtain hlt | rfl := Nat.lt_succ_iff_lt_or_eq.mp hi
    · exact h.stepped i hlt
    · exact hstep
  · obtain hlt | rfl := Nat.lt_succ_iff_lt_or_eq.mp hi
    · exact h.goesOn i hlt
    · exact fun hstops => hdisplay ⟨i, rfl, hstops⟩

/-- A turn of a course that leaves no display request to end the call goes on to the next state of the course. -/
theorem hostTurn_of_loopCourse (h : Claims.LoopCourse maxCycles s n u run) {i : Nat} (hi : i < n)
    (hdisplay : ¬ Claims.DisplayStops (u i) (u (i + 1))) :
    (u i).hostTurn maxCycles (run i) = .goesOn (u (i + 1)) (run (i + 1)) := by
  obtain ⟨hstep, hrun⟩ := h.stepped i hi
  rw [hostTurn_of_not_displayStops (h.tested i hi) hstep hdisplay, hrun]

/-- The call goes along a course as far as no display request ends it. -/
theorem hostStep_along_loopCourse (h : Claims.LoopCourse maxCycles s n u run) {k : Nat} (hk : k ≤ n)
    (hdisplay : ∀ i, i < k → ¬ Claims.DisplayStops (u i) (u (i + 1))) :
    s.hostStep maxCycles = (u k).hostStepLoop maxCycles (run k) := by
  induction k with
  | zero =>
    obtain ⟨hu, hrun⟩ := h.start
    rw [hu, hrun, State.hostStep]
  | succ k ih =>
    have hturn := hostTurn_of_loopCourse h hk (hdisplay k k.lt_succ_self)
    rw [ih (Nat.le_of_succ_le hk) fun i hi => hdisplay i (Nat.lt_succ_of_lt hi), State.hostStepLoop_goesOn hturn]

/-- Where the loop stops, the call returns: for the display request in the last turn, for the other reasons in a turn that runs
nothing. -/
theorem hostStep_of_loopStops (h : Claims.LoopCourse maxCycles s n u run) (hstops : LoopStops maxCycles n u run) :
    s.hostStep maxCycles = some (u n, run n) := by
  by_cases hdisplay : ∃ m, n = m + 1 ∧ Claims.DisplayStops (u m) (u n)
  · obtain ⟨m, rfl, hends⟩ := hdisplay
    obtain ⟨hstep, hrun⟩ := h.stepped m m.lt_succ_self
    rw [hostStep_along_loopCourse h m.le_succ fun i hi => h.goesOn i (Nat.succ_lt_succ hi), hrun]
    exact State.hostStepLoop_returns (hostTurn_of_displayStops (h.tested m m.lt_succ_self) hstep hends)
  · have hnone : ∀ i, i < n → ¬ Claims.DisplayStops (u i) (u (i + 1)) := by
      intro i hi hends
      obtain hlt | rfl := (Nat.succ_le_of_lt hi).lt_or_eq
      · exact h.goesOn i hlt hends
      · exact hdisplay ⟨i, rfl, hends⟩
    have htest : maxCycles ≤ run n ∨ (u n).halted = true ∨ (u n).waitingForInput = true :=
      hstops.imp_right fun hs => hs.imp_right fun hs => hs.resolve_right hdisplay
    rw [hostStep_along_loopCourse h le_rfl hnone]
    exact State.hostStepLoop_returns (hostTurn_of_stop htest)

/-- On an endless course no number of turns is enough. -/
theorem hostStep_of_endless (h : ∀ n, Claims.LoopCourse maxCycles s n u run) : s.hostStep maxCycles = none := by
  have hturn (i : Nat) : (u i).hostTurn maxCycles (run i) = .goesOn (u (i + 1)) (run (i + 1)) :=
    hostTurn_of_loopCourse (h (i + 1)) i.lt_succ_self ((h (i + 2)).goesOn i (i + 1).lt_succ_self)
  have hwithin (fuel i : Nat) : (u i).hostStepWithin maxCycles fuel (run i) = none := by
    induction fuel generalizing i with
    | zero => rfl
    | succ fuel ih => rw [State.hostStepWithin, hturn]; exact ih (i + 1)
  rw [hostStep_along_loopCourse (h 0) le_rfl nofun]
  refine Option.eq_none_iff_forall_ne_some.mpr fun p hp => ?_
  obtain ⟨fuel, hfuel⟩ := State.hostStepLoop_eq_some_iff.mp hp
  exact Option.some_ne_none p (hfuel.symm.trans (hwithin fuel 0))

end

/-! The course of every call -/

/-- The state a step answers; every step answers one (R271). -/
def nextState (s : State) : State :=
  match step s with
  | .next t => t
  | .fault _ => s
  | .refused _ => s

theorem step_eq_nextState (s : State) : step s = .next (nextState s) := by
  obtain ⟨t, ht⟩ := everyStepAnswersNext.2 s
  rw [nextState, ht]

/-- The cycles that the first `n` steps from `s` cost (R290). -/
def cyclesUsed (s : State) (n : Nat) : Nat := ∑ i ∈ Finset.range n, (nextState^[i] s).stepCost

theorem steps_advance (s : State) (n : Nat) :
    step (nextState^[n] s) = .next (nextState^[n + 1] s) ∧
      cyclesUsed s (n + 1) = cyclesUsed s n + (nextState^[n] s).stepCost := by
  rw [Function.iterate_succ_apply']
  exact ⟨step_eq_nextState _, Finset.sum_range_succ ..⟩

/-- The loop stops somewhere, or it goes on for ever. -/
theorem loop_stops_or_endless (s : State) (maxCycles : Nat) :
    (∃ n u run, Claims.LoopCourse maxCycles s n u run ∧ LoopStops maxCycles n u run) ∨
      ∃ u run, ∀ n, Claims.LoopCourse maxCycles s n u run := by
  refine or_iff_not_imp_left.mpr fun hnever => ⟨(nextState^[·] s), cyclesUsed s, fun n => ?_⟩
  induction n with
  | zero => exact loopCourse_zero rfl rfl
  | succ n ih => exact loopCourse_succ ih (fun hstops => hnever ⟨n, _, _, ih, hstops⟩) (steps_advance s n)

/-- Settles O58: a course that stops is the call's result, an endless one leaves none, and every call has one or the other. -/
theorem hostStepFollowsTheLoop : Obligations.HostStepFollowsTheLoop := by
  refine ⟨fun s t maxCycles r => ⟨fun hresult => ?_, ?_⟩, fun s maxCycles => ⟨fun hresult => ?_, ?_⟩⟩
  · obtain ⟨n, u, run, hcourse, hstops⟩ | ⟨u, run, hendless⟩ := loop_stops_or_endless s maxCycles
    · cases (hostStep_of_loopStops hcourse hstops).symm.trans hresult
      exact ⟨n, u, run, hcourse, rfl, rfl, hstops⟩
    · cases (hostStep_of_endless hendless).symm.trans hresult
  · rintro ⟨n, u, run, hcourse, rfl, rfl, hstops⟩
    exact hostStep_of_loopStops hcourse hstops
  · refine (loop_stops_or_endless s maxCycles).resolve_left ?_
    rintro ⟨n, u, run, hcourse, hstops⟩
    cases (hostStep_of_loopStops hcourse hstops).symm.trans hresult
  · rintro ⟨u, run, hendless⟩
    exact hostStep_of_endless hendless

/-! What a call keeps, and that it ends under positive costs -/

theorem step_keeps_params {s t : State} (h : step s = .next t) : t.params = s.params := by
  cases hhalted : s.halted with
  | true =>
    rw [step_of_halted hhalted] at h
    cases h
    rfl
  | false =>
    rw [step_of_running hhalted] at h
    rw [(exec_frame h).params, State.fetchInstr_eq, State.setPc_params]

section
variable {s : State} {maxCycles n : Nat} {u : Nat → State} {run : Nat → Nat}

/-- What holds of the first state, no cycles used, and what each step keeps, holds along the whole course. -/
theorem loopCourse_induction {P : State → Nat → Prop} (h : Claims.LoopCourse maxCycles s n u run) (hstart : P s 0)
    (hkept : ∀ v w r, step v = .next w → P v r → P w (r + v.stepCost)) {i : Nat} (hi : i ≤ n) : P (u i) (run i) := by
  induction i with
  | zero =>
    obtain ⟨hu, hrun⟩ := h.start
    rwa [hu, hrun]
  | succ i ih =>
    obtain ⟨hstep, hrun⟩ := h.stepped i hi
    rw [hrun]
    exact hkept _ _ _ hstep (ih (Nat.le_of_succ_le hi))

theorem loopCourse_params (h : Claims.LoopCourse maxCycles s n u run) {i : Nat} (hi : i ≤ n) : (u i).params = s.params :=
  loopCourse_induction (P := fun v _ => v.params = s.params) h rfl
    (fun _ _ _ hstep hv => (step_keeps_params hstep).trans hv) hi

theorem loopCourse_inv (h : Claims.LoopCourse maxCycles s n u run) (hs : s.Inv) : (u n).Inv :=
  loopCourse_induction (P := fun v _ => v.Inv) h hs (fun v w _ hstep hv => stepKeepsTheInvariant v w hv hstep) le_rfl

/-- The counter grows by the cycles used, modulo 2^64 (R321). -/
theorem loopCourse_cycles (h : Claims.LoopCourse maxCycles s n u run) : (u n).cycles = s.cycles + BitVec.ofNat 64 (run n) := by
  refine loopCourse_induction (P := fun v r => v.cycles = s.cycles + BitVec.ofNat 64 r) h (BitVec.add_zero _).symm ?_ le_rfl
  intro v w r hstep hv
  rw [stepAddsItsCost v w hstep, hv, BitVec.ofNat_add, BitVec.add_assoc]

theorem stepCost_pos {v : State} (hcosts : Claims.PositiveCosts s) (hrunning : v.halted = false) (hparams : v.params = s.params) :
    1 ≤ v.stepCost := by
  rw [stepCost_of_running hrunning]
  refine hcosts _ _ ?_
  rw [State.fetchInstr_eq, State.setPc_params, hparams]

/-- Each turn uses at least one cycle. -/
theorem turns_le_cycles_used (hcosts : Claims.PositiveCosts s) (h : Claims.LoopCourse maxCycles s n u run) {i : Nat}
    (hi : i ≤ n) : i ≤ run i := by
  induction i with
  | zero => exact Nat.zero_le _
  | succ i ih =>
    obtain ⟨-, hrunning, -⟩ := h.tested i hi
    obtain ⟨-, hrun⟩ := h.stepped i hi
    have hpos := stepCost_pos hcosts hrunning (loopCourse_params h (Nat.le_of_succ_le hi))
    have hle := ih (Nat.le_of_succ_le hi)
    omega

/-- A course is no longer than its budget. -/
theorem turns_le_budget (hcosts : Claims.PositiveCosts s) (h : Claims.LoopCourse maxCycles s n u run) : n ≤ maxCycles := by
  cases n with
  | zero => exact Nat.zero_le _
  | succ m =>
    obtain ⟨hbudget, -, -⟩ := h.tested m m.lt_succ_self
    exact (turns_le_cycles_used hcosts h m.le_succ).trans_lt hbudget

end

/-- Settles O13: under positive costs no course is longer than the budget, so the loop stops; the rest holds along its course. -/
theorem hostStepReturns : Obligations.HostStepReturns := by
  intro s maxCycles hcosts
  obtain ⟨n, u, run, hcourse, hstops⟩ | ⟨u, run, hendless⟩ := loop_stops_or_endless s maxCycles
  · refine ⟨u n, run n, hostStep_of_loopStops hcourse hstops, ?_, loopCourse_cycles hcourse, loopCourse_inv hcourse⟩
    refine hstops.imp_right fun hs => hs.imp_right fun hs => hs.imp_right ?_
    rintro ⟨m, -, hrequest, -⟩
    exact hrequest
  · exact absurd (turns_le_budget hcosts (hendless (maxCycles + 1))) (Nat.not_succ_le_self maxCycles)

/-! The device commands (R280, R281, R292) -/

theorem tickTimers_countdown (s : State) (delta : Nat) :
    (s.tickTimers delta).countdown.toNat = s.countdown.toNat - delta := by
  have hbound := s.countdown.isLt
  rw [State.tickTimers]
  split
  · rw [BitVec.toNat_ofNat, Nat.mod_eq_of_lt (by omega)]
  · next h => exact (Nat.sub_eq_zero_of_le (Nat.le_of_not_lt h)).symm

/-- Settles O56: each command is an update of its own fields; the countdown alone has two cases. -/
theorem deviceCommands : Obligations.DeviceCommands := fun s delta _ =>
  ⟨BitVec.toNat_ofNat _ 16, tickTimers_countdown s delta, rfl, rfl, rfl, rfl⟩

end Sys2Proof.Proofs

/-! Family 70_reset_and_hazards.md: `init()`, `reset_cpu()` and `load_program()`. -/

namespace Sys2Proof.Proofs
open Sys2Proof.Machine

/-! Loading a program (R303) -/

/-- The first 16,384 bytes go to their own index, and every other address reads as before, the overlay included. -/
theorem read8_loadProgram {s : State} (bytes : List Byte) (a : Word) (hm : s.mem.wf = true) :
    (s.loadProgram bytes).read8 a =
      if a.toNat < bytes.length ∧ a.toNat < 16384 then bytes.getD a.toNat 0 else s.read8 a := by
  have hlength : (bytes.take maxProgramBytes).length = min 16384 bytes.length := List.length_take
  by_cases hstore : a.toNat < 0xFFF0
  · have hread := Memory.read_load (bytes.take maxProgramBytes) 0 a.toNat 0xFFF0 s.mem hm (by omega)
    rw [State.read8, State.read8, targetOf_of_lt hstore]
    show (Memory.load _ 0 s.mem).read a.toNat = _
    rw [hread, hlength]
    split
    · next h =>
      rw [if_pos (by omega), Nat.sub_zero, List.getD_eq_getElem?_getD, List.getD_eq_getElem?_getD,
        List.getElem?_take_of_lt (by rw [maxProgramBytes]; omega)]
    · rw [if_neg (by omega)]
  · rw [if_neg (by omega), State.read8, State.read8]
    cases htarget : targetOf a with
    | store => exact absurd (targetOf_store htarget) hstore
    | _ => rfl

/-- Settles O55: the command writes the field `mem` only, and what is read there is `read8_loadProgram`. -/
theorem loadProgramCopies : Obligations.LoadProgramCopies := by
  intro s bytes hm
  refine ⟨fun i hlength hlimit => ?_, fun a hbeyond => ?_, rfl⟩
  · have hi : (BitVec.ofNat 16 i).toNat = i := (BitVec.toNat_ofNat i 16).trans (Nat.mod_eq_of_lt (by omega))
    rw [read8_loadProgram bytes _ hm, hi, if_pos ⟨hlength, hlimit⟩]
  · rw [read8_loadProgram bytes a hm, if_neg (by omega)]

/-! `init()` (R301, R37) -/

theorem init_reg (s : State) (r : Reg) : s.init.reg r = 0 := Vector.getElem_replicate _

/-- The store is empty and every device register zero. -/
theorem init_read8 (s : State) (a : Word) : s.init.read8 a = 0 := by
  rw [State.read8]
  cases targetOf a with
  | sysTimerHigh | countdownHigh => exact BitVec.eq_of_toNat_eq (highByte_toNat 0)
  | _ => rfl

theorem init_fetchInstr (s : State) : s.init.fetchInstr = (.nop, { s.init with pc := 1 }) := by
  rw [State.fetchInstr_eq, init_read8]
  rfl

/-- Settles O53: beside what `init()` writes out, the bytes and registers it leaves, and the NOP it leaves at 0x0000. -/
theorem initState : Obligations.InitState := by
  intro s
  have hstep : step s.init = exec .nop { s.init with pc := 1 } := by rw [step_of_running rfl, init_fetchInstr]
  exact ⟨init_reg s, rfl, rfl, rfl, rfl, rfl, rfl, rfl, init_read8 s, rfl, rfl, rfl, rfl, fun _ => rfl, rfl, rfl, rfl, hstep, rfl⟩

/-! `reset_cpu()` (R302) -/

/-- The store and the device registers stay, and a read looks at nothing else. -/
theorem resetCpu_read8 (s : State) (a : Word) : s.resetCpu.read8 a = s.read8 a := rfl

theorem resetCpu_console_kept {s : State} (h : s.params.resetCpuConsole = .kept) : s.resetCpu.console = s.console := by
  show s.consoleAfterResetCpu = _
  rw [State.consoleAfterResetCpu, h]

theorem resetCpu_console_cleared {s : State} (h : s.params.resetCpuConsole = .cleared) :
    s.resetCpu.console = s.init.console := by
  show s.consoleAfterResetCpu = _
  rw [State.consoleAfterResetCpu, h]
  rfl

/-- Settles O54: the CPU's fields are those of `init()`, the kept ones those of `s`; the console has a case for each value of
`RESET_CPU_CONSOLE`. -/
theorem resetCpuState : Obligations.ResetCpuState := by
  intro s
  exact ⟨init_reg s, rfl, rfl, rfl, rfl, rfl, rfl, rfl, resetCpu_read8 s, rfl, rfl, rfl, rfl, rfl,
    resetCpu_console_kept, resetCpu_console_cleared⟩

end Sys2Proof.Proofs
